-- ==== Sys2Proof/Word.lean ====
section
/-! DEFINITION. The byte, the only machine word of the device's interface (00_scope.md R12), and the two
check-code words of the codecs (42_codecs.md R216, R221). -/

namespace Sys2Proof

/-- A byte: the data lines, a CDB byte, a queue byte, a frame byte (00_scope.md R10, R12). -/
abbrev Byte := BitVec 8

/-- The 16-bit Q-channel CRC (42_codecs.md R221). -/
abbrev Word16 := BitVec 16

/-- The 32-bit EDC (42_codecs.md R216). -/
abbrev Word32 := BitVec 32

end Sys2Proof
end

