-- ==== Sys2Proof/Syntax.lean ====
section
/-! DEFINITION. The instructions as syntax: one constructor of `Instr` per row of spec/opcode_table.json, with the
operands that the rules of 30_encoding.md read. Bits that R101 calls ignored are no operand. -/

namespace Sys2Proof

/-- A subchannel-Q record (10_state.md R43); `status` holds control in bits 7:4 and ADR in bits 3:0, the times are BCD. -/
structure SubchannelQ where
  status : Byte
  tno : Byte
  index : Byte
  rm : Byte
  rs : Byte
  rf : Byte
  am : Byte
  as : Byte
  af : Byte
deriving DecidableEq, Repr, Inhabited

/-- The address of AUDIO_START_POS and AUDIO_END_POS, by bits 7:6 of byte 9 (30_encoding.md R95). The BCD bytes are kept
as received: decoding them belongs to the command (42_codecs.md R210). -/
inductive AudioAddr where
  /-- 0x00: a 24-bit LBA in bytes 3 to 5. -/
  | lba (a : BitVec 24)
  /-- 0x40: BCD minute, second, frame in bytes 2 to 4. -/
  | msf (m s f : Byte)
  /-- 0x80: a BCD track number in byte 2. -/
  | track (t : Byte)
  /-- 0xC0: reserved (30_encoding.md R103). -/
  | reserved
deriving DecidableEq, Repr

/-- The sub-function of READ_TOC, by byte 1 (30_encoding.md R98). -/
inductive TocRequest where
  | trackCount
  | discLength
  /-- Byte 2 is the BCD track number. -/
  | trackStart (track : Byte)
  /-- Any byte 1 of 3 or above (30_encoding.md R103). -/
  | other (fn : Byte)
deriving DecidableEq, Repr

/-- The `ESectorSynthPart` flags (10_state.md R42); their bits are `Part.bit`. -/
inductive Part where
  | user2048 | header16 | ecmAny | subchannelP | subchannelQ | subchannelRW | subcodeDeinterleave
deriving DecidableEq, Repr

/-- A sector-synthesis job without its variant tag and its destination buffer (10_state.md R42): the tag selects the
instruction (30_encoding.md R115), the buffer is `State.dest`. `parts` is the bitmask of 30_encoding.md R114, any number
of bits wide so that a job with unknown bits can be refused. -/
structure SynthJob where
  lba : Int
  mode : Nat
  parts : Nat
  off : Nat
  pause : Bool
  q : SubchannelQ
deriving DecidableEq, Repr

/-- A job as the host hands it over: the variant tag and the job (30_encoding.md R115). -/
structure JobDescriptor where
  variant : Nat
  job : SynthJob
deriving DecidableEq, Repr

/-- The instructions: opcode classes (1) and (2) of 30_encoding.md R90, one constructor per row of the opcode table. -/
inductive Instr where
  | testUnitReady
  /-- `count` is the CDB byte: 0 stands for 256 (30_encoding.md R93). -/
  | read (lba : BitVec 21) (count : Byte)
  | audioStartPos (control : Byte) (addr : AudioAddr)
  | audioEndPos (control : Byte) (addr : AudioAddr)
  | pause
  | readSubcodeQ
  | readToc (req : TocRequest)
  /-- Every byte 0 that is no assigned opcode (30_encoding.md R102). -/
  | unrecognized (opcode : Byte)
  | synthMode1_2048 (job : SynthJob)
  | synthGap_2048 (job : SynthJob)
  | synthRaw_2352 (job : SynthJob)
  | synthGap_2352 (job : SynthJob)
deriving DecidableEq, Repr

end Sys2Proof
end

