-- ==== Sys2Proof/Config.lean ====
section
/-! DEFINITION. What is fixed for one machine (the sizes of 00_scope.md R9) and the free values: what the spec leaves
open or to a collaborator. A free value has no body, so nothing can be proved of it. -/

namespace Sys2Proof

/-- The opcode bytes `OPCODE_*` (00_scope.md R9, 30_encoding.md R99); they must be pairwise distinct
(`Opcodes.distinct`). -/
structure Opcodes where
  testUnitReady : Byte
  read : Byte
  audioStartPos : Byte
  audioEndPos : Byte
  pause : Byte
  readSubcodeQ : Byte
  readToc : Byte
deriving DecidableEq, Repr

/-- The parameters that a machine is built with and no operation writes: those of 00_scope.md R9, and one of the model's. -/
structure Params where
  /-- `OPCODE_*`, with the defaults `Opcodes.defaults` (93_implementation_defined.md T22, 92_eei_decisions.md D12). -/
  opcodes : Opcodes
  /-- `READ_DELAY_CYCLES`, OPEN (92_eei_decisions.md D10). -/
  readDelayCycles : Nat
  /-- `RESET_CLEARS_BSY`, default false (D6, 90_conflicts.md C4). -/
  resetClearsBsy : Bool
  /-- `UNRECOGNIZED_CLEARS_CDB`, default true (D15). -/
  unrecognizedClearsCdb : Bool
  /-- `EDC_LSB_FIRST`, default true (D30, 90_conflicts.md C3). -/
  edcLsbFirst : Bool
  /-- The MODEL's own, not one of R9: whether a READ that found bytes queued delivers them first (70_reset_and_hazards.md
  R347, last item) or leaves the bus in Command, as 40_bus_fsm.md R141 and R149 have it. DESIGN CHOICE (log 32), default
  false; a statement for every state holds for both. -/
  queuedBytesFirst : Bool
deriving DecidableEq, Repr

/-- `CDB_MAX` (00_scope.md R9). -/
def Config.cdbMax : Nat := 10

/-- `DATAIN_CAPACITY` (00_scope.md R9, 92_eei_decisions.md D39). -/
def Config.dataInCapacity : Nat := 2048

/-- `SECTOR_USER_BYTES` (00_scope.md R9). -/
def Config.sectorUserBytes : Nat := 2048

/-- `SECTOR_RAW_BYTES` (00_scope.md R9). -/
def Config.sectorRawBytes : Nat := 2352

/-- `FRAME_BYTES` (00_scope.md R9). -/
def Config.frameBytes : Nat := 2448

/-- `SUBCODE_BYTES`, at frame index `SECTOR_RAW_BYTES` (00_scope.md R9). -/
def Config.subcodeBytes : Nat := 96

/-- `SETTLE_BOUND` (00_scope.md R9, 92_eei_decisions.md D4). -/
def Config.settleBound : Nat := 64

/-- FREE VALUE. `READ_DELAY_CYCLES` is OPEN in the spec (92_eei_decisions.md D10): no number. -/
opaque Config.readDelayCycles : Nat

/-- FREE VALUE. What the block-data source answers for an LBA and a length that `Disc.blocks` does not list: any bytes,
of any length (60_exceptions.md R322, 93_implementation_defined.md T12). -/
opaque Config.readBlock : Int → Nat → List Byte

/-- FREE VALUE. The record the subcode source answers for an LBA that `Disc.subq` does not list (60_exceptions.md R324,
93_implementation_defined.md T32). -/
opaque Config.subchannelQ : Int → SubchannelQ

/-- FREE VALUE. `SectorsLeftToRead` after a sector load that finds it at 0, which only a restored state reaches: the spec
states no value there (42_codecs.md R225 decrements it only while positive). The type keeps the range of 10_state.md R27. -/
opaque Config.sectorsLeftBelowZero : Nat → Fin 257

end Sys2Proof
end

