-- ==== Sys2Proof/Decode.lean ====
section
/-! DEFINITION. The decoder, total on any bytes and rejecting by name, and after it the encoder, both written from
30_encoding.md for every choice of the opcode bytes. Their defaults and the part bits are here because they are
encodings. -/

namespace Sys2Proof

/-! ## Opcode bytes (30_encoding.md R99): the defaults, UNVERIFIED (93_implementation_defined.md G1) -/

/-- `OPCODE_TEST_UNIT_READY` (30_encoding.md R99). -/
def opcodeTestUnitReady : Byte := 0x00
/-- `OPCODE_READ` (30_encoding.md R99). -/
def opcodeRead : Byte := 0x08
/-- `OPCODE_AUDIO_START_POS` (30_encoding.md R99). -/
def opcodeAudioStartPos : Byte := 0xD8
/-- `OPCODE_AUDIO_END_POS` (30_encoding.md R99). -/
def opcodeAudioEndPos : Byte := 0xD9
/-- `OPCODE_PAUSE` (30_encoding.md R99). -/
def opcodePause : Byte := 0xDA
/-- `OPCODE_READ_SUBCODE_Q` (30_encoding.md R99). -/
def opcodeReadSubcodeQ : Byte := 0xDD
/-- `OPCODE_READ_TOC` (30_encoding.md R99). -/
def opcodeReadToc : Byte := 0xDE

/-- The default opcode bytes (00_scope.md R9, 30_encoding.md R99). -/
def Opcodes.defaults : Opcodes where
  testUnitReady := opcodeTestUnitReady
  read := opcodeRead
  audioStartPos := opcodeAudioStartPos
  audioEndPos := opcodeAudioEndPos
  pause := opcodePause
  readSubcodeQ := opcodeReadSubcodeQ
  readToc := opcodeReadToc

/-- The assigned opcodes of 6-byte CDBs (30_encoding.md R91, R92). -/
def Opcodes.sixByte (o : Opcodes) : List Byte := [o.testUnitReady, o.read]

/-- The assigned opcodes of 10-byte CDBs (30_encoding.md R91, R94). -/
def Opcodes.tenByte (o : Opcodes) : List Byte := [o.audioStartPos, o.audioEndPos, o.pause, o.readSubcodeQ, o.readToc]

/-- The seven assigned opcodes; every other byte 0 is unrecognized (30_encoding.md R102). -/
def Opcodes.assigned (o : Opcodes) : List Byte := o.sixByte ++ o.tenByte

/-- The seven values are pairwise distinct, as they must be (30_encoding.md R99). -/
abbrev Opcodes.distinct (o : Opcodes) : Prop := o.assigned.Nodup

/-- The CDB length that byte 0 implies (30_encoding.md R91). -/
def cdbLength (o : Opcodes) (op : Byte) : Nat :=
  if op ∈ o.sixByte then 6 else if op ∈ o.tenByte then 10 else 1

/-- The bit of each `ESectorSynthPart` flag (30_encoding.md R114). -/
def Part.bit : Part → Nat
  | .user2048 => 0
  | .header16 => 1
  | .ecmAny => 2
  | .subchannelP => 3
  | .subchannelQ => 4
  | .subchannelRW => 5
  | .subcodeDeinterleave => 6

/-- Whether a job requests a part (30_encoding.md R114). -/
def SynthJob.has (job : SynthJob) (p : Part) : Bool := job.parts.testBit p.bit

/-- `|parts|` in bits: a job with a bit at position 7 or above is refused (30_encoding.md R114). -/
def partBits : Nat := 7

/-- How many variant tags there are: 0 to 3 (30_encoding.md R115). -/
def variantTags : Nat := 4

/-! ## The decoder -/

/-- Why bytes or a job descriptor are no instruction. -/
inductive DecodeRefusal where
  /-- No byte at all. -/
  | emptyCdb
  /-- Fewer bytes than byte 0 implies: "need more data" (30_encoding.md R91). -/
  | needMoreData (got need : Nat)
  /-- A variant tag of 4 or above (30_encoding.md R115). -/
  | unknownVariant (tag : Nat)
deriving DecidableEq, Repr

/-- Byte `i` of a CDB (20_memory.md R63). A command reads only bytes below its CDB length, where the default is not met. -/
def cdbByte (cdb : List Byte) (i : Nat) : Byte := cdb.getD i 0

/-- The address of an AUDIO_* CDB, by bits 7:6 of byte 9 (30_encoding.md R95). -/
def decodeAudioAddr (cdb : List Byte) : AudioAddr :=
  let kind := (cdbByte cdb 9).extractLsb' 6 2
  if kind = 0#2 then .lba (cdbByte cdb 3 ++ cdbByte cdb 4 ++ cdbByte cdb 5)
  else if kind = 1#2 then .msf (cdbByte cdb 2) (cdbByte cdb 3) (cdbByte cdb 4)
  else if kind = 2#2 then .track (cdbByte cdb 2)
  else .reserved

/-- The sub-function of a READ_TOC CDB, by byte 1 (30_encoding.md R98). -/
def decodeTocRequest (cdb : List Byte) : TocRequest :=
  let fn := cdbByte cdb 1
  if fn = 0 then .trackCount
  else if fn = 1 then .discLength
  else if fn = 2 then .trackStart (cdbByte cdb 2)
  else .other fn

/-- The command of a complete CDB with byte 0 `op` (30_encoding.md R92 to R99). -/
def decodeFields (o : Opcodes) (op : Byte) (cdb : List Byte) : Instr :=
  if op = o.testUnitReady then .testUnitReady
  else if op = o.read then
    .read ((cdbByte cdb 1).extractLsb' 0 5 ++ cdbByte cdb 2 ++ cdbByte cdb 3) (cdbByte cdb 4)
  else if op = o.audioStartPos then .audioStartPos (cdbByte cdb 1) (decodeAudioAddr cdb)
  else if op = o.audioEndPos then .audioEndPos (cdbByte cdb 1) (decodeAudioAddr cdb)
  else if op = o.pause then .pause
  else if op = o.readSubcodeQ then .readSubcodeQ
  else if op = o.readToc then .readToc (decodeTocRequest cdb)
  else .unrecognized op

/-- The command of the CDB bytes received so far (30_encoding.md R91, 41_scsi_commands.md R170). -/
def decodeCdb (o : Opcodes) (cdb : List Byte) : Except DecodeRefusal Instr :=
  match cdb with
  | [] => .error .emptyCdb
  | op :: _ =>
    if cdb.length < cdbLength o op then .error (.needMoreData cdb.length (cdbLength o op))
    else .ok (decodeFields o op cdb)

/-- The synthesis instruction that a job's variant tag selects (30_encoding.md R115). -/
def decodeJob (d : JobDescriptor) : Except DecodeRefusal Instr :=
  if d.variant = 0 then .ok (.synthMode1_2048 d.job)
  else if d.variant = 1 then .ok (.synthGap_2048 d.job)
  else if d.variant = 2 then .ok (.synthRaw_2352 d.job)
  else if d.variant = 3 then .ok (.synthGap_2352 d.job)
  else .error (.unknownVariant d.variant)

/-- The two encoded forms of an instruction (30_encoding.md R90): the bytes of a CDB, or a job with its variant tag. -/
inductive Encoded where
  | cdb (bytes : List Byte)
  | job (d : JobDescriptor)
deriving DecidableEq, Repr

/-- The decoder over both encoded forms. -/
def decode (o : Opcodes) : Encoded → Except DecodeRefusal Instr
  | .cdb bytes => decodeCdb o bytes
  | .job d => decodeJob d

/-- The first ten bytes of an opcode-table word: bit 0 is the least significant bit of the first byte, every bit from
`nbits` on is 0. A CDB is at most ten bytes long (30_encoding.md R91). -/
def wordBytes (nbits w : Nat) : List Byte :=
  (List.range Config.cdbMax).map fun i => BitVec.ofNat 8 ((w % 2 ^ nbits) >>> (8 * i))

/-- The instruction that the decoder reads, at the default opcode bytes, from an opcode-table word. The rows SYNTH_* have no word: a variant tag selects
them, not a CDB byte (30_encoding.md R90). -/
def decodeTableWord (nbits w : Nat) : Option Instr :=
  match decodeCdb Opcodes.defaults (wordBytes nbits w) with
  | .ok i => some i
  | .error _ => none

/-! ## The encoder -/

/-- Bytes 2 to 5 and byte 9 of an AUDIO_* CDB; ignored bytes are 00 (30_encoding.md R95, R104). -/
def encodeAudio (op control : Byte) : AudioAddr → List Byte
  | .lba a =>
    [op, control, 0, a.extractLsb' 16 8, a.extractLsb' 8 8, a.extractLsb' 0 8, 0, 0, 0, 0x00]
  | .msf m s f => [op, control, m, s, f, 0, 0, 0, 0, 0x40]
  | .track t => [op, control, t, 0, 0, 0, 0, 0, 0, 0x80]
  | .reserved => [op, control, 0, 0, 0, 0, 0, 0, 0, 0xC0]

/-- Bytes 1 and 2 of a READ_TOC CDB (30_encoding.md R98). -/
def encodeTocRequest : TocRequest → Byte × Byte
  | .trackCount => (0, 0)
  | .discLength => (1, 0)
  | .trackStart t => (2, t)
  | .other fn => (fn, 0)

/-- A CDB of ten bytes with only the first three given. -/
def tenBytes (op b1 b2 : Byte) : List Byte := [op, b1, b2, 0, 0, 0, 0, 0, 0, 0]

/-- The encoded form of an instruction (30_encoding.md R92 to R99, R104, R115). -/
def encode (o : Opcodes) : Instr → Encoded
  | .testUnitReady => .cdb [o.testUnitReady, 0, 0, 0, 0, 0]
  | .read lba count =>
    .cdb [o.read, (lba.extractLsb' 16 5).setWidth 8, lba.extractLsb' 8 8, lba.extractLsb' 0 8, count, 0]
  | .audioStartPos control addr => .cdb (encodeAudio o.audioStartPos control addr)
  | .audioEndPos control addr => .cdb (encodeAudio o.audioEndPos control addr)
  | .pause => .cdb (tenBytes o.pause 0 0)
  | .readSubcodeQ => .cdb (tenBytes o.readSubcodeQ 0 0)
  | .readToc req => .cdb (tenBytes o.readToc (encodeTocRequest req).1 (encodeTocRequest req).2)
  | .unrecognized op => .cdb [op]
  | .synthMode1_2048 job => .job ⟨0, job⟩
  | .synthGap_2048 job => .job ⟨1, job⟩
  | .synthRaw_2352 job => .job ⟨2, job⟩
  | .synthGap_2352 job => .job ⟨3, job⟩

end Sys2Proof
end

