-- ==== Sys2Proof/Machine/State.lean ====
section
/-! DEFINITION. The state as plain data: the device's persisted record (10_state.md, 20_memory.md R80), its Fault record,
and beside them the parameters, the collaborators' state, the destination buffer and the host's side. -/

namespace Sys2Proof.Machine

/-! ## Signals and phase -/

/-- The nine bus lines by name (10_state.md R22). -/
inductive Line where
  | bsy | sel | cd | io | msg | req | ack | atn | rst
deriving DecidableEq, Repr

/-- The signal vector (10_state.md R22); true is asserted (91_not_in_source.md N5). -/
structure Signals where
  bsy : Bool
  sel : Bool
  cd : Bool
  io : Bool
  msg : Bool
  req : Bool
  ack : Bool
  atn : Bool
  rst : Bool
deriving DecidableEq, Repr

/-- The bus phase (10_state.md R23). -/
inductive BusPhase where
  | busFree | command | dataIn | dataOut | messageIn | messageOut | status
deriving DecidableEq, Repr

/-! ## The persisted device state -/

/-- Every persisted field of the device (20_memory.md R80): 10_state.md R22 to R37. -/
structure Bus where
  /-- 10_state.md R22. -/
  sig : Signals
  /-- 10_state.md R29. -/
  dataBits : Byte
  /-- 10_state.md R23. -/
  phase : BusPhase
  /-- 10_state.md R24, byte 0 first, at most `CDB_MAX` bytes. -/
  commandBuffer : List Byte
  /-- 10_state.md R25, head first, at most `DATAIN_CAPACITY` bytes. -/
  dataIn : List Byte
  /-- 10_state.md R26. -/
  currentReadingSector : Int
  /-- 10_state.md R27, 0 to 256. -/
  sectorsLeftToRead : Nat
  /-- 10_state.md R28, in host cycles. -/
  dataReadWaitTimer : Nat
  /-- 10_state.md R30. -/
  dataReadInProgress : Bool
  /-- 10_state.md R31. -/
  dataTransferInProgress : Bool
  /-- 10_state.md R32. -/
  dataTransferWasDone : Bool
  /-- 10_state.md R33. -/
  messageValue : Byte
  /-- 10_state.md R34. -/
  statusCompleted : Bool
  /-- 10_state.md R35. -/
  messageCompleted : Bool
  /-- 10_state.md R36. -/
  audioStartLBA : Int
  /-- 10_state.md R36. -/
  audioEndLBA : Int
  /-- 10_state.md R37, 60_exceptions.md R310. -/
  intDataTransferReady : Bool
  /-- 10_state.md R37, 60_exceptions.md R311. -/
  intDataTransferComplete : Bool
deriving DecidableEq, Repr

/-! ## The Fault record -/

/-- The job field that F7 names (60_exceptions.md R301). -/
inductive JobField where
  | parts (v : Nat)
  | variant (v : Nat)
  | mode (v : Nat)
deriving DecidableEq, Repr

/-- A fault code with its info (60_exceptions.md R301). Recording one is a next state of the machine, not an outcome
`fault`: see `State.raise`. -/
inductive FaultRecord where
  /-- F1: the settle loop had `SETTLE_BOUND` changing passes (40_bus_fsm.md R131). -/
  | noSettle (phase : BusPhase) (sig : Signals)
  /-- F2: a BCD byte with a nibble above 9 (42_codecs.md R211). -/
  | badBcd (b : Byte)
  /-- F3: a value above 99 to be encoded as BCD (42_codecs.md R212). -/
  | bcdRange (n : Nat)
  /-- F4: a block answer of another length than asked (40_bus_fsm.md R141; 43_sector_synth.md R252, R257). -/
  | sectorSize (lba : Int)
  /-- F5: an LBA with no MSF (42_codecs.md R213). -/
  | msfRange (lba : Int)
  /-- F6: the frame does not fit in the destination (43_sector_synth.md R250). -/
  | frameBounds (off : Nat)
  /-- F7: a refused job descriptor (43_sector_synth.md R250). -/
  | jobRefused (field : JobField)
  /-- F8: an enqueue into a full queue (20_memory.md R66). -/
  | queueOverflow
  /-- F9: an eleventh CDB byte (40_bus_fsm.md R136). -/
  | cdbOverflow (cdb : List Byte)
deriving DecidableEq, Repr

/-- The number of a fault code (60_exceptions.md R301). -/
def FaultRecord.number : FaultRecord → Nat
  | .noSettle _ _ => 1
  | .badBcd _ => 2
  | .bcdRange _ => 3
  | .sectorSize _ => 4
  | .msfRange _ => 5
  | .frameBounds _ => 6
  | .jobRefused _ => 7
  | .queueOverflow => 8
  | .cdbOverflow _ => 9

/-! ## The collaborators (60_exceptions.md R321 to R325) -/

/-- What the audio player says it does (60_exceptions.md R323). -/
inductive AudioMode where
  | playing | paused | stopped
deriving DecidableEq, Repr

/-- What the audio player does at its end position (30_encoding.md R116, 60_exceptions.md R323). -/
inductive PlayMode where
  | stopOnCompletion | loopOnCompletion | callbackOnCompletion
deriving DecidableEq, Repr

/-- The audio player's state, as the minimal collaborator of 60_exceptions.md R323 keeps it. -/
structure Audio where
  mode : AudioMode
  currentSector : Int
  endLBA : Int
  playMode : PlayMode
deriving DecidableEq, Repr

/-- A track of the table of contents (60_exceptions.md R325): the address of its index 1 and its type. -/
structure TocTrack where
  start : Int
  isAudio : Bool
deriving DecidableEq, Repr

/-- The first session's table of contents (60_exceptions.md R325); the track at list position t − 1 is track t. -/
structure Toc where
  tracks : List TocTrack
  leadoutLBA : Int
deriving DecidableEq, Repr

/-- One answer of the block-data source: `ReadBlock(lba, length)` returns `bytes` (60_exceptions.md R322). -/
structure BlockAnswer where
  lba : Int
  length : Nat
  bytes : List Byte
deriving DecidableEq, Repr

/-- One answer of the subcode source: `ReadSubchannelQ(lba)` returns `record` (60_exceptions.md R324). -/
structure SubqAnswer where
  lba : Int
  record : SubchannelQ
deriving DecidableEq, Repr

/-- The disc as its collaborators answer for it: what is listed here, and a free value for what is not
(`Disc.readBlock`, `Disc.subchannelQ`). No operation writes it. -/
structure Disc where
  toc : Toc
  blocks : List BlockAnswer
  subq : List SubqAnswer
deriving DecidableEq, Repr

/-- A call to a collaborator (00_scope.md R11; 60_exceptions.md R322 to R325). -/
inductive Call where
  | blockRead (lba : Int) (length : Nat)
  | audioPlayFrom (lba : Int)
  | audioPause
  | audioStop
  | audioSetEndLBA (lba : Int)
  | audioSetPlayMode (m : PlayMode)
  | audioMode
  | audioCurrentSector
  | subcodeRead (lba : Int)
  | tocTrackCount
  | tocTrackStart (t : Nat)
  | tocIsAudio (t : Nat)
  | tocLeadoutLBA
deriving DecidableEq, Repr

/-! ## The host's side -/

/-- One operation of the host (40_bus_fsm.md R130, R143 to R147; 43_sector_synth.md R251; 60_exceptions.md R300), or a
move of what lies outside the device. -/
inductive HostOp where
  /-- `WriteSignal(L, b)` (40_bus_fsm.md R143). -/
  | writeSignal (l : Line) (b : Bool)
  /-- `WriteData(v)` (40_bus_fsm.md R143). -/
  | writeData (v : Byte)
  /-- `Advance(now)` (40_bus_fsm.md R130). -/
  | advance (now : Nat)
  /-- `Reset()` (40_bus_fsm.md R145). -/
  | reset
  /-- `AckInterrupt()` (40_bus_fsm.md R146). -/
  | ackInterrupt
  /-- `ReadSignals()` (40_bus_fsm.md R144). -/
  | readSignals
  /-- `ReadData()` (40_bus_fsm.md R144). -/
  | readData
  /-- `ReadFault()` (60_exceptions.md R300). -/
  | readFault
  /-- `Save()` (40_bus_fsm.md R147). -/
  | save
  /-- `Load(image)` (40_bus_fsm.md R147). -/
  | load (image : Bus)
  /-- `Synth(job)` (43_sector_synth.md R251). -/
  | synth (d : JobDescriptor)
  /-- The host supplies the destination buffer of the jobs that follow (10_state.md R42). -/
  | provideDest (bytes : List Byte)
  /-- The audio player moves on its own (60_exceptions.md R323, 93_implementation_defined.md T31). -/
  | audioMoves (mode : AudioMode) (currentSector : Int)
deriving DecidableEq, Repr

/-- What a read operation of the host answers. -/
inductive HostReply where
  /-- The nine lines and the two interrupt lines (40_bus_fsm.md R144). -/
  | signals (sig : Signals) (ready complete : Bool)
  /-- `DataBits` (40_bus_fsm.md R144). -/
  | data (v : Byte)
  /-- The Fault record (60_exceptions.md R300). -/
  | fault (f : Option FaultRecord)
  /-- The saved image (20_memory.md R80). -/
  | image (b : Bus)
deriving DecidableEq, Repr

/-! ## Memory and the whole state -/

/-- The bytes of the destination buffer (20_memory.md R64), as cells with rising addresses of which none holds what an
unlisted address reads as: `Memory.wf`. -/
abbrev Memory := List Host.Cell

/-- The machine's state. -/
structure State where
  /-- The device's persisted state (20_memory.md R80). -/
  bus : Bus
  /-- The Fault record (10_state.md R38, 60_exceptions.md R300). -/
  fault : Option FaultRecord
  /-- The parameters of 00_scope.md R9. -/
  params : Params
  /-- The audio player (10_state.md R41). -/
  audio : Audio
  /-- The disc (10_state.md R41). -/
  disc : Disc
  /-- The bytes of the jobs' destination buffer (10_state.md R42). -/
  dest : Memory
  /-- The length of the destination buffer (20_memory.md R64). -/
  destLen : Nat
  /-- The model's own: the argument of the `Advance` under way or last made (40_bus_fsm.md R130). -/
  now : Nat
  /-- The model's own: the host operations still to come. -/
  inputs : List HostOp
  /-- The model's own: the answers to the host's reads, oldest first. -/
  replies : List HostReply
  /-- The model's own: the collaborator calls made, oldest first. -/
  calls : List Call
  /-- The model's own: how many free values of the sector counter have been drawn. -/
  freeCount : Nat
deriving DecidableEq, Repr

/-- Why a step ends in the outcome `fault`: never. The spec's faults F1 to F9 are recorded in `State.fault` and the
machine goes on (60_exceptions.md R300, R303), so this type has no constructor. -/
inductive Fault where
deriving DecidableEq, Repr

/-- Why a step is refused. -/
inductive Refusal where
  /-- Raised by an arm of `exec` whose instruction has no meaning yet; safe: the machine stops. No arm raises it now. -/
  | notModelled (mnemonic : String)
deriving DecidableEq, Repr

/-- Every line deasserted. -/
def Signals.allLow : Signals := ⟨false, false, false, false, false, false, false, false, false⟩

/-- The device part of `S0`, the power-on state that 70_reset_and_hazards.md R342 suggests. DESIGN CHOICE, unsafe:
`POWER_ON_STATE` is OPEN (92_eei_decisions.md D7). -/
def Bus.powerOn : Bus where
  sig := Signals.allLow
  dataBits := 0x00
  phase := .busFree
  commandBuffer := []
  dataIn := []
  currentReadingSector := 0
  sectorsLeftToRead := 0
  dataReadWaitTimer := 0
  dataReadInProgress := false
  dataTransferInProgress := false
  dataTransferWasDone := false
  messageValue := 0x00
  statusCompleted := false
  messageCompleted := false
  audioStartLBA := 0
  audioEndLBA := 0
  intDataTransferReady := false
  intDataTransferComplete := false

/-- The machine as it starts: the device at `S0` with no fault (70_reset_and_hazards.md R342), the parameters at the
defaults of 00_scope.md R9, the audio player stopped at 0 (95_test_vectors.md section 0), no disc data listed, a zeroed
destination buffer of one frame. What the spec does not state here is DESIGN CHOICE. -/
def State.reset : State where
  bus := Bus.powerOn
  fault := none
  params := ⟨Opcodes.defaults, Config.readDelayCycles, false, true, true, false⟩
  audio := ⟨.stopped, 0, 0, .stopOnCompletion⟩
  disc := ⟨⟨[], 0⟩, [], []⟩
  dest := []
  destLen := Config.frameBytes
  now := 0
  inputs := []
  replies := []
  calls := []
  freeCount := 0

end Sys2Proof.Machine
end

