-- ==== Sys2Proof/Machine/Ops.lean ====
section
/-! DEFINITION. The shared operations: the destination buffer's bytes, the frame primitives, the DataIn queue, raising a
fault, and the calls to the collaborators. -/

namespace Sys2Proof.Machine

/-! ## Outcomes -/

/-- Go on from a next state; stop with the first outcome that is none. -/
def andThen (o : Host.Outcome State Fault Refusal) (k : State → Host.Outcome State Fault Refusal) :
    Host.Outcome State Fault Refusal :=
  match o with
  | .next s => k s
  | .fault r => .fault r
  | .refused r => .refused r

/-! ## The destination buffer (20_memory.md R64) -/

/-- What a byte of the destination buffer that is not listed reads as. DESIGN CHOICE, unsafe: the buffer is the caller's
(20_memory.md R67 leaves unwritten bytes as they were); the spec's programs start from a zeroed one. -/
def unlistedByte : Byte := 0x00

/-- The canonical form: addresses strictly rising, no cell that holds what an unlisted address reads as. -/
abbrev Memory.wf (m : Memory) : Prop :=
  m.Pairwise (fun c d => c.1 < d.1) ∧ ∀ c ∈ m, c.2 ≠ unlistedByte

/-- The byte at address `a`. -/
def Memory.readByte (m : Memory) (a : Nat) : Byte :=
  match m.find? (fun c => c.1 == a) with
  | some c => c.2
  | none => unlistedByte

/-- The `n` bytes from address `a` on. -/
def Memory.readBytes (m : Memory) (a n : Nat) : List Byte :=
  (List.range n).map fun k => m.readByte (a + k)

/-- The cells of bytes laid out from address `a` on. -/
def cellsOf (a : Nat) : List Byte → Memory
  | [] => []
  | b :: bs => if b = unlistedByte then cellsOf (a + 1) bs else (a, b) :: cellsOf (a + 1) bs

/-- Write bytes from address `a` on; the canonical form is kept. -/
def Memory.writeBytes (m : Memory) (a : Nat) (bs : List Byte) : Memory :=
  m.filter (fun c => decide (c.1 < a)) ++ (cellsOf a bs ++ m.filter (fun c => decide (a + bs.length ≤ c.1)))

/-! ## Frame primitives (20_memory.md R67) -/

/-- `MemRead(F, k, n)` (20_memory.md R67). -/
def memRead (f : List Byte) (k n : Nat) : List Byte := (f.drop k).take n

/-- `MemWrite(F, k, |v|, v)` (20_memory.md R67). -/
def memWrite (f : List Byte) (k : Nat) (v : List Byte) : List Byte :=
  f.take k ++ (v ++ f.drop (k + v.length))

/-! ## Faults (60_exceptions.md R300) -/

/-- `raise Fault(code, info)`: the first fault is recorded and stays (60_exceptions.md R300, R302). The aborting of the
operation is in the callers, which do nothing after a raise. There is no return from a fault (R303, R334). -/
def State.raise (s : State) (f : FaultRecord) : State :=
  match s.fault with
  | none => { s with fault := some f }
  | some _ => s

/-- Whether a fault is recorded. -/
def State.faulted (s : State) : Bool := s.fault.isSome

/-! ## The DataIn queue (20_memory.md R66) -/

/-- `enqueueAll(bs)`: bytes are appended while the queue has room; true says that one found it full. -/
def Bus.enqueueAll (b : Bus) (bs : List Byte) : Bus × Bool :=
  let room := Config.dataInCapacity - b.dataIn.length
  ({ b with dataIn := b.dataIn ++ bs.take room }, decide (room < bs.length))

/-- `enqueueAll(bs)` and then `k`, or `Fault(F8_QUEUE_OVERFLOW)` (20_memory.md R66). -/
def State.enqueueThen (s : State) (bs : List Byte) (k : State → State) : State :=
  let r := s.bus.enqueueAll bs
  if r.2 then { s with bus := r.1 }.raise .queueOverflow else k { s with bus := r.1 }

/-! ## Collaborator calls (60_exceptions.md R322 to R325) -/

/-- Record calls to collaborators. -/
def State.called (s : State) (cs : List Call) : State := { s with calls := s.calls ++ cs }

/-- `Audio.PlayFrom(l)` (60_exceptions.md R323, the minimal collaborator). -/
def State.audioPlayFrom (s : State) (l : Int) : State :=
  { s.called [.audioPlayFrom l] with audio := { s.audio with mode := .playing, currentSector := l } }

/-- `Audio.Pause()` (60_exceptions.md R323): paused if it was playing. -/
def State.audioPause (s : State) : State :=
  { s.called [.audioPause] with
    audio := { s.audio with mode := if s.audio.mode = .playing then .paused else s.audio.mode } }

/-- `Audio.Stop()` (60_exceptions.md R323). -/
def State.audioStop (s : State) : State :=
  { s.called [.audioStop] with audio := { s.audio with mode := .stopped } }

/-- `Audio.EndLBA <- l; Audio.PlayMode <- m` (60_exceptions.md R323, 41_scsi_commands.md R174). -/
def State.audioSetEnd (s : State) (l : Int) (m : PlayMode) : State :=
  { s.called [.audioSetEndLBA l, .audioSetPlayMode m] with audio := { s.audio with endLBA := l, playMode := m } }

/-- `Block.ReadBlock(lba, length)` (60_exceptions.md R322): what the disc lists, else any bytes. -/
def Disc.readBlock (d : Disc) (lba : Int) (length : Nat) : List Byte :=
  match d.blocks.find? (fun e => decide (e.lba = lba) && decide (e.length = length)) with
  | some e => e.bytes
  | none => Config.readBlock lba length

/-- `Subcode.ReadSubchannelQ(lba)` (60_exceptions.md R324): what the disc lists, else any record. -/
def Disc.subchannelQ (d : Disc) (lba : Int) : SubchannelQ :=
  match d.subq.find? (fun e => decide (e.lba = lba)) with
  | some e => e.record
  | none => Config.subchannelQ lba

/-- `TOC.trackCount()` (60_exceptions.md R325). -/
def Toc.trackCount (t : Toc) : Nat := t.tracks.length

/-- Track `n`, for 1 ≤ n ≤ trackCount (60_exceptions.md R325). -/
def Toc.track? (t : Toc) (n : Nat) : Option TocTrack := t.tracks[n - 1]?

/-! ## The free value of the sector counter -/

/-- `SectorsLeftToRead - 1` (40_bus_fsm.md R141) of a counter `n`; at 0, which only a restored state reaches, the spec
states no value (42_codecs.md R225): a free value. -/
def sectorsAfterLoad (n drawn : Nat) : Nat :=
  match n with
  | 0 => (Config.sectorsLeftBelowZero drawn).val
  | k + 1 => k

/-- How many free values are drawn after a sector load that finds the counter at `n`. -/
def drawsAfterLoad (n drawn : Nat) : Nat :=
  match n with
  | 0 => drawn + 1
  | _ + 1 => drawn

end Sys2Proof.Machine
end

