-- ==== Sys2Proof/Machine/Codecs.lean ====
section
/-! DEFINITION. The codecs of 42_codecs.md: BCD, MSF, EDC, GF(2^8) and ECC, Q CRC, Q bytes, subcode interleave. They read
only their arguments. -/

namespace Sys2Proof.Machine

/-! ## BCD and time (42_codecs.md R210 to R214) -/

/-- Bits 7:4 of a byte (42_codecs.md R210). -/
def highNibble (b : Byte) : Nat := b.toNat / 16

/-- Bits 3:0 of a byte (42_codecs.md R210). -/
def lowNibble (b : Byte) : Nat := b.toNat % 16

/-- `BCDtoBin(b)` (42_codecs.md R211). -/
def bcdToBin (b : Byte) : Except FaultRecord Nat :=
  if 9 < highNibble b ∨ 9 < lowNibble b then .error (.badBcd b)
  else .ok (10 * highNibble b + lowNibble b)

/-- `((n / 10) << 4) | (n % 10)` as a byte, for n of at most 99 (42_codecs.md R212). -/
def bcdByte (n : Nat) : Byte := BitVec.ofNat 8 (16 * (n / 10) + n % 10)

/-- `BinToBCD(n)` (42_codecs.md R212). -/
def binToBcd (n : Nat) : Except FaultRecord Byte :=
  if 99 < n then .error (.bcdRange n) else .ok (bcdByte n)

/-- A time as minute, second, frame (20_memory.md R62). -/
structure Msf where
  m : Nat
  s : Nat
  f : Nat
deriving DecidableEq, Repr

/-- `LBA_to_MSF(lba)` (42_codecs.md R213). -/
def lbaToMsf (lba : Int) : Except FaultRecord Msf :=
  let a := lba + 150
  if a < 0 ∨ 449999 < a then .error (.msfRange lba)
  else .ok ⟨a.toNat / 4500, (a.toNat / 75) % 60, a.toNat % 75⟩

/-- `MSF_to_LBA(m, s, f)`, not range-checked (42_codecs.md R214). -/
def msfToLba (t : Msf) : Int := ((t.m * 60 + t.s) * 75 + t.f : Nat) - 150

/-- The three BCD bytes of an LBA's time, minute first (20_memory.md R68; 41_scsi_commands.md R177). -/
def msfBytes (lba : Int) : Except FaultRecord (List Byte) :=
  match lbaToMsf lba with
  | .error f => .error f
  | .ok t => .ok [bcdByte t.m, bcdByte t.s, bcdByte t.f]

/-! ## EDC (42_codecs.md R215, R216) -/

/-- One of the eight shifts of an EDC table entry (42_codecs.md R215). -/
def edcShift (e : Word32) : Word32 :=
  (e >>> 1) ^^^ (if e.getLsbD 0 then 0xD8018001#32 else 0#32)

/-- `EDC_LUT[i]` (42_codecs.md R215). -/
def edcEntry (i : Byte) : Word32 :=
  (List.range 8).foldl (fun e _ => edcShift e) (i.setWidth 32)

/-- One byte of the EDC (42_codecs.md R216). -/
def edcStep (e : Word32) (b : Byte) : Word32 :=
  (e >>> 8) ^^^ edcEntry (e.setWidth 8 ^^^ b)

/-- `EDC(bytes)` (42_codecs.md R216). -/
def edc (bytes : List Byte) : Word32 := bytes.foldl edcStep 0#32

/-- The four stored bytes of the EDC (42_codecs.md R216, 20_memory.md R68). -/
def edcBytes (lsbFirst : Bool) (e : Word32) : List Byte :=
  if lsbFirst then [e.extractLsb' 0 8, e.extractLsb' 8 8, e.extractLsb' 16 8, e.extractLsb' 24 8]
  else [e.extractLsb' 24 8, e.extractLsb' 16 8, e.extractLsb' 8 8, e.extractLsb' 0 8]

/-! ## GF(2^8) and ECC (42_codecs.md R217 to R220) -/

/-- `F_LUT[i]`: multiplication by α with the polynomial 0x11D (42_codecs.md R217). -/
def gfDouble (i : Byte) : Byte := (i <<< 1) ^^^ (if i.getLsbD 7 then 0x1D#8 else 0#8)

/-- `B_LUT[j]`: the i with `i ^ F_LUT[i] = j` (42_codecs.md R217), found by search. The table is total there, so the
search does not fail. -/
def gfUnmix (j : Byte) : Byte :=
  BitVec.ofNat 8 (((List.range 256).find? fun i =>
    BitVec.ofNat 8 i ^^^ gfDouble (BitVec.ofNat 8 i) == j).getD 0)

/-- The inner loop of `ECCBlock` over the bytes still to come: `src` is the frame from index 12, (a, b) the two sums. -/
def eccColumn (src : List Byte) (size minorInc : Nat) : Nat → Nat → Byte → Byte → Byte × Byte
  | 0, _, a, b => (a, b)
  | n + 1, index, a, b =>
    let t := src.getD index 0
    let next := index + minorInc
    eccColumn src size minorInc n (if size ≤ next then next - size else next)
      (gfDouble (a ^^^ t)) (b ^^^ t)

/-- The two parity bytes of one column (42_codecs.md R218). -/
def eccParity (src : List Byte) (majorCount minorCount majorMult minorInc major : Nat) : Byte × Byte :=
  let ab := eccColumn src (majorCount * minorCount) minorInc minorCount
    ((major / 2) * majorMult + major % 2) 0 0
  let a := gfUnmix (gfDouble ab.1 ^^^ ab.2)
  (a, a ^^^ ab.2)

/-- `ECCBlock(F, …, dest)` (42_codecs.md R218). Its parity lies outside the bytes it reads (R219, R220), so all columns
read the frame as it was. -/
def eccBlock (f : List Byte) (majorCount minorCount majorMult minorInc dest : Nat) : List Byte :=
  let ps := (List.range majorCount).map
    (eccParity (f.drop 12) majorCount minorCount majorMult minorInc)
  memWrite f dest (ps.map Prod.fst ++ ps.map Prod.snd)

/-- `ECC_P(F)` (42_codecs.md R219). -/
def eccP (f : List Byte) : List Byte := eccBlock f 86 24 2 86 2076

/-- `ECC_Q(F)` (42_codecs.md R220). -/
def eccQ (f : List Byte) : List Byte := eccBlock f 52 43 86 88 2248

/-! ## Q channel (42_codecs.md R221, R222) -/

/-- One of the eight shifts of a byte of the Q CRC (42_codecs.md R221). -/
def crcShift (c : Word16) : Word16 :=
  (c <<< 1) ^^^ (if c.getLsbD 15 then 0x1021#16 else 0#16)

/-- One byte of the Q CRC (42_codecs.md R221). -/
def crcStep (c : Word16) (b : Byte) : Word16 :=
  (List.range 8).foldl (fun c _ => crcShift c) (c ^^^ (b.setWidth 16 <<< 8))

/-- `QCRC(q10)`, complemented (42_codecs.md R221). -/
def qCrc (bytes : List Byte) : Word16 := ~~~ (bytes.foldl crcStep 0#16)

/-- The nine bytes of a Q record in the order of the responses (30_encoding.md R107). -/
def recordBytes (q : SubchannelQ) : List Byte := [q.status, q.tno, q.index, q.rm, q.rs, q.rf, q.am, q.as, q.af]

/-- Bytes 0 to 9 of the Q channel (30_encoding.md R113). -/
def qData (q : SubchannelQ) : List Byte := [q.status, q.tno, q.index, q.rm, q.rs, q.rf, 0x00, q.am, q.as, q.af]

/-- `QBytes(q)` (42_codecs.md R222). -/
def qBytes (q : SubchannelQ) : List Byte :=
  qData q ++ [(qCrc (qData q)).extractLsb' 8 8, (qCrc (qData q)).extractLsb' 0 8]

/-! ## Subcode interleave (42_codecs.md R223, R224) -/

/-- Output byte `j` of the interleave: bit 7 − c is bit 7 − (j % 8) of byte 12c + j / 8 (42_codecs.md R223). -/
def interleaveByte (d : List Byte) (j : Nat) : Byte :=
  (List.range 8).foldl (fun o c =>
    o ||| (((d.getD (12 * c + j / 8) 0 >>> (7 - j % 8)) &&& 1#8) <<< (7 - c))) 0#8

/-- `Interleave(d)` of 96 bytes (42_codecs.md R223). -/
def interleave (d : List Byte) : List Byte := (List.range Config.subcodeBytes).map (interleaveByte d)

/-- Output byte `12c + k` of the inverse: bit 7 − t is bit 7 − c of byte 8k + t (42_codecs.md R224). -/
def deinterleaveByte (o : List Byte) (i : Nat) : Byte :=
  (List.range 8).foldl (fun d t =>
    d ||| (((o.getD (8 * (i % 12) + t) 0 >>> (7 - i / 12)) &&& 1#8) <<< (7 - t))) 0#8

/-- `Deinterleave(o)` of 96 bytes (42_codecs.md R224). -/
def deinterleave (o : List Byte) : List Byte := (List.range Config.subcodeBytes).map (deinterleaveByte o)

end Sys2Proof.Machine
end

