-- ==== Sys2Proof/Machine/Flags.lean ====
section
/-! DEFINITION. The signal lines and the completion and interrupt flags: the phase entry table, SetPhase, EnterStatus and
single-line writes. -/

namespace Sys2Proof.Machine

/-- The status byte of every case the spec defines (30_encoding.md R106; UNVERIFIED, 93_implementation_defined.md G2). -/
def statusGood : Byte := 0x00

/-- The message byte of MessageIn (30_encoding.md R106; UNVERIFIED, 93_implementation_defined.md G2). -/
def messageCommandComplete : Byte := 0x00

/-- The lines that entering a phase writes (30_encoding.md R105). -/
structure EntrySet where
  bsy : Bool
  msg : Bool
  cd : Bool
  io : Bool
  req : Bool
deriving DecidableEq, Repr

/-- The phase signal encoding, columns BSY, MSG, CD, IO, REQ at entry (30_encoding.md R105). -/
def entrySet : BusPhase → EntrySet
  | .busFree => ⟨false, false, false, false, false⟩
  | .command => ⟨true, false, true, false, true⟩
  | .dataIn => ⟨true, false, false, true, false⟩
  | .dataOut => ⟨true, false, false, false, true⟩
  | .messageIn => ⟨true, true, true, true, true⟩
  | .messageOut => ⟨true, true, true, false, true⟩
  | .status => ⟨true, false, true, true, true⟩

/-- Write the entry lines; SEL, ACK, ATN and RST are untouched (40_bus_fsm.md R133). -/
def Signals.enter (g : Signals) (e : EntrySet) : Signals :=
  { g with bsy := e.bsy, msg := e.msg, cd := e.cd, io := e.io, req := e.req }

/-- `SetPhase(p)`: a no-op in the phase already active (40_bus_fsm.md R133). -/
def Bus.setPhase (b : Bus) (p : BusPhase) : Bus :=
  if p = b.phase then b else { b with phase := p, sig := b.sig.enter (entrySet p) }

/-- `sig.REQ <- v`. -/
def Bus.setReq (b : Bus) (v : Bool) : Bus := { b with sig := { b.sig with req := v } }

/-- `EnterStatus(status, message)` (40_bus_fsm.md R134). -/
def Bus.enterStatus (b : Bus) (status message : Byte) : Bus :=
  { b with messageValue := message, statusCompleted := false, messageCompleted := false,
           dataBits := status }.setPhase .status

/-- `EnterStatus(STATUS_GOOD, MESSAGE_COMMAND_COMPLETE)`, every use of the spec (40_bus_fsm.md R134). -/
def Bus.enterGoodStatus (b : Bus) : Bus := b.enterStatus statusGood messageCommandComplete

/-- The same on the whole state. -/
def State.enterGoodStatus (s : State) : State := { s with bus := s.bus.enterGoodStatus }

/-- `sig.L <- v` for a line given by name (40_bus_fsm.md R143). -/
def Signals.set (g : Signals) (l : Line) (v : Bool) : Signals :=
  match l with
  | .bsy => { g with bsy := v }
  | .sel => { g with sel := v }
  | .cd => { g with cd := v }
  | .io => { g with io := v }
  | .msg => { g with msg := v }
  | .req => { g with req := v }
  | .ack => { g with ack := v }
  | .atn => { g with atn := v }
  | .rst => { g with rst := v }

/-- The value of a line given by name (40_bus_fsm.md R144). -/
def Signals.get (g : Signals) (l : Line) : Bool :=
  match l with
  | .bsy => g.bsy
  | .sel => g.sel
  | .cd => g.cd
  | .io => g.io
  | .msg => g.msg
  | .req => g.req
  | .ack => g.ack
  | .atn => g.atn
  | .rst => g.rst

/-- REQ and ACK both asserted: a byte is being moved (40_bus_fsm.md R136 to R139). -/
def Bus.handshake (b : Bus) : Bool := b.sig.req && b.sig.ack

/-- REQ and ACK both deasserted (40_bus_fsm.md R136 to R139). -/
def Bus.handshakeIdle (b : Bus) : Bool := !b.sig.req && !b.sig.ack

end Sys2Proof.Machine
end

