-- ==== Sys2Proof/Machine/Operands.lean ====
section
/-! DEFINITION. Operand assembly (30_encoding.md R100): the READ operands, the audio position, the TOC queries and the bytes
they answer with, each beside the collaborator calls it makes. -/

namespace Sys2Proof.Machine

/-- The READ LBA, zero-extended (30_encoding.md R100 (a)). -/
def readLba (lba : BitVec 21) : Int := lba.toNat

/-- The READ count: 0 stands for 256 (30_encoding.md R93, R100 (b)). -/
def readCount (count : Byte) : Nat := if count = 0 then 256 else count.toNat

/-- Track 0 reads as track 1 (41_scsi_commands.md R177, R180). -/
def trackOrFirst (n : Nat) : Nat := if n = 0 then 1 else n

/-- `TrackLBA(n)`: a track above the count reads the lead-out (41_scsi_commands.md R180). -/
def trackLba (toc : Toc) (n : Nat) : Int :=
  match toc.track? (trackOrFirst n) with
  | some tr => tr.start
  | none => toc.leadoutLBA

/-- The calls of `TrackLBA(n)`, in order (41_scsi_commands.md R180). -/
def trackLbaCalls (toc : Toc) (n : Nat) : List Call :=
  if toc.trackCount < trackOrFirst n then [.tocTrackCount, .tocLeadoutLBA]
  else [.tocTrackCount, .tocTrackStart (trackOrFirst n)]

/-- `AudioAddress(old)`; the BCD bytes are decoded in the order M, S, F (41_scsi_commands.md R179). -/
def audioAddress (toc : Toc) (old : Int) : AudioAddr → Except FaultRecord Int
  | .lba a => .ok a.toNat
  | .msf m s f =>
    match bcdToBin m with
    | .error e => .error e
    | .ok m =>
      match bcdToBin s with
      | .error e => .error e
      | .ok s =>
        match bcdToBin f with
        | .error e => .error e
        | .ok f => .ok (msfToLba ⟨m, s, f⟩)
  | .track t =>
    match bcdToBin t with
    | .error e => .error e
    | .ok n => .ok (trackLba toc n)
  | .reserved => .ok old

/-- The calls of `AudioAddress`, in order (41_scsi_commands.md R179, R180). -/
def audioAddressCalls (toc : Toc) : AudioAddr → List Call
  | .lba _ => []
  | .msf _ _ _ => []
  | .track t =>
    match bcdToBin t with
    | .error _ => []
    | .ok n => trackLbaCalls toc n
  | .reserved => []

/-- The flag byte of READ_TOC sub-function 2 (30_encoding.md R108; UNVERIFIED, 93_implementation_defined.md G12). -/
def trackFlag (toc : Toc) (n : Nat) : Byte :=
  match toc.track? (trackOrFirst n) with
  | some tr => if tr.isAudio then 0x00 else 0x04
  | none => 0x00

/-- The TOC calls of READ_TOC, in order, up to the fault where the track byte is malformed (41_scsi_commands.md R177). -/
def tocCalls (toc : Toc) : TocRequest → List Call
  | .trackCount => [.tocTrackCount]
  | .discLength => [.tocLeadoutLBA]
  | .trackStart t =>
    match bcdToBin t with
    | .error _ => []
    | .ok n =>
      if toc.trackCount < trackOrFirst n then [.tocTrackCount, .tocLeadoutLBA]
      else [.tocTrackCount, .tocTrackStart (trackOrFirst n), .tocIsAudio (trackOrFirst n)]
  | .other _ => []

/-- The bytes READ_TOC answers with (30_encoding.md R108, 41_scsi_commands.md R177); none for an unknown sub-function,
which has no data (30_encoding.md R103). -/
def tocBytes (toc : Toc) : TocRequest → Except FaultRecord (Option (List Byte))
  | .trackCount =>
    match binToBcd toc.trackCount with
    | .error e => .error e
    | .ok n => .ok (some [0x01, n])
  | .discLength =>
    match msfBytes toc.leadoutLBA with
    | .error e => .error e
    | .ok bs => .ok (some bs)
  | .trackStart t =>
    match bcdToBin t with
    | .error e => .error e
    | .ok n =>
      match msfBytes (trackLba toc n) with
      | .error e => .error e
      | .ok bs => .ok (some (bs ++ [trackFlag toc n]))
  | .other _ => .ok none

/-- The DataIn queue that READ_TOC leaves where a fault ends it: sub-function 0 clears the queue before `BinToBCD` raises
F3 (41_scsi_commands.md R177), and what was written before a raise is kept (60_exceptions.md R300); the other two convert
before they clear. DESIGN CHOICE (log 30), unsafe: 93_implementation_defined.md T8 reads that a fault writes nothing. -/
def tocFaultQueue (req : TocRequest) (queue : List Byte) : List Byte :=
  match req with
  | .trackCount => []
  | .discLength => queue
  | .trackStart _ => queue
  | .other _ => queue

/-- The play-state code of READ_SUBCODE_Q (30_encoding.md R116). -/
def playStateCode : AudioMode → Byte
  | .playing => 0x00
  | .paused => 0x02
  | .stopped => 0x03

/-- The LBA whose Q record READ_SUBCODE_Q reads (41_scsi_commands.md R176). -/
def subcodeLba (audio : Audio) (cursor : Int) : Int :=
  if audio.mode = .stopped then cursor else audio.currentSector

/-- The calls of READ_SUBCODE_Q, in order (41_scsi_commands.md R176). -/
def subcodeCalls (audio : Audio) (cursor : Int) : List Call :=
  (if audio.mode = .stopped then [.audioMode] else [.audioMode, .audioCurrentSector])
    ++ [.subcodeRead (subcodeLba audio cursor)]

/-- The play mode that AUDIO_END_POS byte 1 selects among 1, 2, 3 (41_scsi_commands.md R174). -/
def endPlayMode (control : Byte) : Option PlayMode :=
  if control = 1 then some .loopOnCompletion
  else if control = 2 then some .callbackOnCompletion
  else if control = 3 then some .stopOnCompletion
  else none

end Sys2Proof.Machine
end

