-- ==== Sys2Proof/Machine/Commands.lean ====
section
/-! DEFINITION. The meanings of the SCSI commands (41_scsi_commands.md R171 to R178): what executing a decoded command
does. Fetching its CDB and clearing the command buffer after it belong to the Command handler (BusEngine.lean). -/

namespace Sys2Proof.Machine

/-- TEST_UNIT_READY (41_scsi_commands.md R171). -/
def execTestUnitReady (s : State) : Host.Outcome State Fault Refusal :=
  .next s.enterGoodStatus

/-- The fields that READ writes (41_scsi_commands.md R172). -/
def Bus.startRead (b : Bus) (lba : Int) (count deadline : Nat) : Bus :=
  { b with currentReadingSector := lba, sectorsLeftToRead := count, dataReadInProgress := true,
           dataTransferInProgress := true, dataTransferWasDone := false, dataReadWaitTimer := deadline }

/-- READ (41_scsi_commands.md R172). -/
def execRead (lba : BitVec 21) (count : Byte) (s : State) : Host.Outcome State Fault Refusal :=
  .next { s with
    bus := s.bus.startRead (readLba lba) (readCount count) (s.now + s.params.readDelayCycles) }.audioStop

/-- AUDIO_START_POS once its position is decoded (41_scsi_commands.md R173). -/
def State.startAudio (s : State) (control : Byte) (start : Int) : State :=
  let s := { s with bus := { s.bus with audioStartLBA := start } }.audioPlayFrom start
  (if control = 0 then s.audioPause else s).enterGoodStatus

/-- AUDIO_START_POS (41_scsi_commands.md R173). -/
def execAudioStartPos (control : Byte) (addr : AudioAddr) (s : State) : Host.Outcome State Fault Refusal :=
  .next (match audioAddress s.disc.toc s.bus.audioStartLBA addr with
    | .error e => s.raise e
    | .ok start => (s.called (audioAddressCalls s.disc.toc addr)).startAudio control start)

/-- The audio part of AUDIO_END_POS: stop, play to an end, or nothing (41_scsi_commands.md R174). -/
def State.endAudioMode (s : State) (control : Byte) : State :=
  if control = 0 then s.audioStop
  else
    match endPlayMode control with
    | some m => (s.audioPlayFrom s.bus.audioStartLBA).audioSetEnd s.bus.audioEndLBA m
    | none => s

/-- AUDIO_END_POS (41_scsi_commands.md R174). -/
def execAudioEndPos (control : Byte) (addr : AudioAddr) (s : State) : Host.Outcome State Fault Refusal :=
  .next (match audioAddress s.disc.toc s.bus.audioEndLBA addr with
    | .error e => s.raise e
    | .ok stop =>
      let s := s.called (audioAddressCalls s.disc.toc addr)
      ({ s with bus := { s.bus with audioEndLBA := stop } }.endAudioMode control).enterGoodStatus)

/-- PAUSE (41_scsi_commands.md R175). -/
def execPause (s : State) : Host.Outcome State Fault Refusal :=
  .next s.audioPause.enterGoodStatus

/-- Answer with data: the queue is cleared, the bytes are enqueued and DataIn is entered (41_scsi_commands.md R176, R177). -/
def State.answer (s : State) (bs : List Byte) : State :=
  { s with bus := { s.bus with dataIn := [] } }.enqueueThen bs fun t => { t with bus := t.bus.setPhase .dataIn }

/-- READ_SUBCODE_Q (41_scsi_commands.md R176). -/
def execReadSubcodeQ (s : State) : Host.Outcome State Fault Refusal :=
  let q := s.disc.subchannelQ (subcodeLba s.audio s.bus.currentReadingSector)
  .next ((s.called (subcodeCalls s.audio s.bus.currentReadingSector)).answer
    (playStateCode s.audio.mode :: recordBytes q))

/-- READ_TOC (41_scsi_commands.md R177). What a fault leaves of the queue is `tocFaultQueue` (log 30). -/
def execReadToc (req : TocRequest) (s : State) : Host.Outcome State Fault Refusal :=
  let t := s.called (tocCalls s.disc.toc req)
  .next (match tocBytes s.disc.toc req with
    | .error e => { t with bus := { t.bus with dataIn := tocFaultQueue req t.bus.dataIn } }.raise e
    | .ok (some bs) => t.answer bs
    | .ok none => t.enterGoodStatus)

/-- An unrecognized opcode: logged, Status GOOD (41_scsi_commands.md R178). The log changes no state (92_eei_decisions.md
D40); whether the command buffer is then cleared is `clearsCommandBuffer`. -/
def execUnrecognized (_opcode : Byte) (s : State) : Host.Outcome State Fault Refusal :=
  .next s.enterGoodStatus

end Sys2Proof.Machine
end

