-- ==== Sys2Proof/Machine/Synth.lean ====
section
/-! DEFINITION. The sector synthesizer (43_sector_synth.md R250 to R262): validation, the main-channel and subcode steps as
functions of a frame, and the meanings of the four variants. -/

namespace Sys2Proof.Machine

/-! ## Validation (43_sector_synth.md R250) -/

/-- Whether a variant tag is one of the 2048-byte variants (30_encoding.md R115). -/
def is2048Variant (variant : Nat) : Bool := decide (variant = 0) || decide (variant = 1)

/-- The checks of `SynthValidate(job)` after the fault test, in order; `destLen` is `|dest|` (43_sector_synth.md R250). -/
def synthValidate (variant : Nat) (job : SynthJob) (destLen : Nat) : Except FaultRecord Unit :=
  if destLen < job.off + Config.frameBytes then .error (.frameBounds job.off)
  else if 2 ^ partBits ≤ job.parts then .error (.jobRefused (.parts job.parts))
  else if variantTags ≤ variant then .error (.jobRefused (.variant variant))
  else if job.mode ≠ 1 ∧ job.mode ≠ 2 then .error (.jobRefused (.mode job.mode))
  else if is2048Variant variant ∧ job.has .ecmAny ∧ job.mode ≠ 1 then .error (.jobRefused (.mode job.mode))
  else if is2048Variant variant ∧ job.has .header16 then
    match lbaToMsf job.lba with
    | .error e => .error e
    | .ok _ => .ok ()
  else .ok ()

/-! ## Steps on a frame -/

/-- The 12 sync bytes (43_sector_synth.md R253). -/
def syncPattern : List Byte := 0x00 :: (List.replicate 10 0xFF ++ [0x00])

/-- `Header2048` (43_sector_synth.md R253). After validation the LBA has an MSF, so the first case is not met. -/
def header2048 (job : SynthJob) (f : List Byte) : List Byte :=
  if job.has .header16 then
    match lbaToMsf job.lba with
    | .error _ => f
    | .ok t =>
      memWrite (memWrite f 0 syncPattern) 12 [bcdByte t.m, bcdByte t.s, bcdByte t.f, BitVec.ofNat 8 job.mode]
  else f

/-- `Ecm2048` (43_sector_synth.md R254). -/
def ecm2048 (lsbFirst : Bool) (job : SynthJob) (f : List Byte) : List Byte :=
  if job.has .ecmAny then
    let f := memWrite f 2064 (edcBytes lsbFirst (edc (memRead f 0 2064)))
    eccQ (eccP (memWrite f 2068 (List.replicate 8 0x00)))
  else f

/-- `Main2048` with the user bytes, if requested (43_sector_synth.md R252). -/
def main2048 (lsbFirst : Bool) (job : SynthJob) (user : Option (List Byte)) (f : List Byte) : List Byte :=
  let f := match user with
    | some u => memWrite f 16 u
    | none => f
  ecm2048 lsbFirst job (header2048 job f)

/-- `Main2352` with the raw bytes, if requested (43_sector_synth.md R257). -/
def main2352 (raw : Option (List Byte)) (f : List Byte) : List Byte :=
  match raw with
  | some r => memWrite f 0 r
  | none => f

/-- Whether a job requests a subchannel part (43_sector_synth.md R259). -/
def wantsSubcode (job : SynthJob) : Bool :=
  job.has .subchannelP || job.has .subchannelQ || job.has .subchannelRW

/-- The P channel (43_sector_synth.md R259). -/
def subcodeP (job : SynthJob) (f : List Byte) : List Byte :=
  if job.has .subchannelP then memWrite f 2352 (List.replicate 12 (if job.pause then 0xFF else 0x00)) else f

/-- The Q channel (43_sector_synth.md R260). -/
def subcodeQ (job : SynthJob) (f : List Byte) : List Byte :=
  if job.has .subchannelQ then memWrite f 2364 (qBytes job.q) else f

/-- The R to W channels (43_sector_synth.md R261). -/
def subcodeRW (job : SynthJob) (f : List Byte) : List Byte :=
  if job.has .subchannelRW then memWrite f 2376 (List.replicate 72 0x00) else f

/-- The interleave in place (43_sector_synth.md R262). -/
def subcodeInterleave (job : SynthJob) (f : List Byte) : List Byte :=
  if job.has .subcodeDeinterleave then f
  else memWrite f 2352 (interleave (memRead f 2352 Config.subcodeBytes))

/-- `Subcode(job)` (43_sector_synth.md R259). -/
def subcode (job : SynthJob) (f : List Byte) : List Byte :=
  if wantsSubcode job then subcodeInterleave job (subcodeRW job (subcodeQ job (subcodeP job f))) else f

/-! ## A job -/

/-- Whether a job of a 2352-byte variant requests the main channel (43_sector_synth.md R257). -/
def wantsRaw (job : SynthJob) : Bool :=
  job.has .user2048 || job.has .header16 || job.has .ecmAny

/-- Where a variant's main-channel bytes come from and what they become. -/
structure MainChannel where
  /-- Whether the job asks for the source's bytes. -/
  wanted : Bool
  /-- How many (20_memory.md R71). -/
  length : Nat
  /-- Whether the source is all zero, which calls no collaborator (43_sector_synth.md R255, R258). -/
  zero : Bool
deriving DecidableEq, Repr

/-- The bytes of the source; `Fault(F4_SECTOR_SIZE)` if the answer has another length (43_sector_synth.md R252, R257). -/
def MainChannel.fetch (c : MainChannel) (disc : Disc) (lba : Int) : Except FaultRecord (Option (List Byte)) :=
  if c.wanted then
    if c.zero then .ok (some (List.replicate c.length 0x00))
    else if (disc.readBlock lba c.length).length = c.length then .ok (some (disc.readBlock lba c.length))
    else .error (.sectorSize lba)
  else .ok none

/-- The block-source call that `fetch` makes. -/
def MainChannel.calls (c : MainChannel) (lba : Int) : List Call :=
  if c.wanted && !c.zero then [.blockRead lba c.length] else []

/-- `Synth(job)` (43_sector_synth.md R251): nothing while a fault is recorded (R250), a recorded fault where a check fails,
else the frame `dest[off .. off+2447]` with the main-channel step `main` and the subcode step done to it. -/
def State.synth (s : State) (variant : Nat) (job : SynthJob) (c : MainChannel)
    (main : Option (List Byte) → List Byte → List Byte) : State :=
  if s.faulted then s
  else
    match synthValidate variant job s.destLen with
    | .error e => s.raise e
    | .ok () =>
      let t := s.called (c.calls job.lba)
      match c.fetch s.disc job.lba with
      | .error e => t.raise e
      | .ok bytes =>
        let frame := t.dest.readBytes job.off Config.frameBytes
        { t with dest := t.dest.writeBytes job.off (subcode job (main bytes frame)) }

/-- A 2048-byte variant (43_sector_synth.md R251, R252). -/
def State.synth2048 (s : State) (variant : Nat) (zero : Bool) (job : SynthJob) : State :=
  s.synth variant job ⟨job.has .user2048, Config.sectorUserBytes, zero⟩ (main2048 s.params.edcLsbFirst job)

/-- A 2352-byte variant (43_sector_synth.md R251, R257). -/
def State.synth2352 (s : State) (variant : Nat) (zero : Bool) (job : SynthJob) : State :=
  s.synth variant job ⟨wantsRaw job, Config.sectorRawBytes, zero⟩ main2352

/-- A job whose variant tag is unknown: its checks end in a recorded fault, the tag's own if no earlier one
(43_sector_synth.md R250, 30_encoding.md R115). -/
def State.synthUnknown (s : State) (d : JobDescriptor) : State :=
  if s.faulted then s
  else
    match synthValidate d.variant d.job s.destLen with
    | .error e => s.raise e
    | .ok () => s

/-- SYNTH_MODE1_2048 (43_sector_synth.md R252 to R254). -/
def execSynthMode1_2048 (job : SynthJob) (s : State) : Host.Outcome State Fault Refusal :=
  .next (s.synth2048 0 false job)

/-- SYNTH_GAP_2048 (43_sector_synth.md R255). -/
def execSynthGap_2048 (job : SynthJob) (s : State) : Host.Outcome State Fault Refusal :=
  .next (s.synth2048 1 true job)

/-- SYNTH_RAW_2352 (43_sector_synth.md R257). -/
def execSynthRaw_2352 (job : SynthJob) (s : State) : Host.Outcome State Fault Refusal :=
  .next (s.synth2352 2 false job)

/-- SYNTH_GAP_2352 (43_sector_synth.md R258). -/
def execSynthGap_2352 (job : SynthJob) (s : State) : Host.Outcome State Fault Refusal :=
  .next (s.synth2352 3 true job)

end Sys2Proof.Machine
end

