-- ==== Sys2Proof/Machine/Dispatch.lean ====
section
/-! DEFINITION. The dispatch: one arm per instruction, each one direct call of its meaning. -/

namespace Sys2Proof.Machine

def exec (i : Instr) (s : State) : Host.Outcome State Fault Refusal :=
  match i with
  | .testUnitReady => Sys2Proof.Machine.execTestUnitReady s
  | .read lba count => Sys2Proof.Machine.execRead lba count s
  | .audioStartPos control addr => Sys2Proof.Machine.execAudioStartPos control addr s
  | .audioEndPos control addr => Sys2Proof.Machine.execAudioEndPos control addr s
  | .pause => Sys2Proof.Machine.execPause s
  | .readSubcodeQ => Sys2Proof.Machine.execReadSubcodeQ s
  | .readToc req => Sys2Proof.Machine.execReadToc req s
  | .unrecognized opcode => Sys2Proof.Machine.execUnrecognized opcode s
  | .synthMode1_2048 job => Sys2Proof.Machine.execSynthMode1_2048 job s
  | .synthGap_2048 job => Sys2Proof.Machine.execSynthGap_2048 job s
  | .synthRaw_2352 job => Sys2Proof.Machine.execSynthRaw_2352 job s
  | .synthGap_2352 job => Sys2Proof.Machine.execSynthGap_2352 job s

end Sys2Proof.Machine
end

