-- ==== Sys2Proof/Machine/BusEngine.lean ====
section
/-! DEFINITION. The bus protocol engine (40_bus_fsm.md R130 to R142) and the device reset (70_reset_and_hazards.md R340):
one `Advance` is the sector load and the settle loop of passes; the Command handler decodes and executes a CDB. -/

namespace Sys2Proof.Machine

/-! ## Reset -/

/-- The device fields after `DeviceReset()` (70_reset_and_hazards.md R340, 10_state.md R44). -/
def Bus.afterReset (b : Bus) (clearsBsy : Bool) : Bus :=
  { b with
    sig := { b.sig with cd := false, io := false, msg := false, req := false, ack := false,
                        bsy := if clearsBsy then false else b.sig.bsy }
    dataBits := 0x00
    phase := .busFree
    commandBuffer := []
    dataIn := []
    dataReadInProgress := false
    dataTransferInProgress := false
    dataTransferWasDone := false
    statusCompleted := false
    messageCompleted := false
    intDataTransferReady := false }

/-- `DeviceReset()`: nothing while a fault is recorded (70_reset_and_hazards.md R340). -/
def State.deviceReset (s : State) : State :=
  if s.faulted then s
  else { s with bus := s.bus.afterReset s.params.resetClearsBsy }.audioStop

/-! ## Phase handlers that execute no command -/

/-- The drain of the DataIn queue (40_bus_fsm.md R137). -/
def Bus.drain (b : Bus) : Bus :=
  let b := { b with intDataTransferReady := false }
  let b :=
    if b.dataTransferWasDone then
      { b with dataTransferInProgress := false, dataTransferWasDone := false, intDataTransferComplete := true }
    else b
  b.enterGoodStatus

/-- `DataInHandler()` (40_bus_fsm.md R137). -/
def Bus.dataInHandler (b : Bus) : Bus :=
  if b.handshake then b.setReq false
  else if b.handshakeIdle then
    match b.dataIn with
    | byte :: rest => { b with dataBits := byte, dataIn := rest }.setReq true
    | [] => b.drain
  else b

/-- The first half of `MessageInHandler()`: the host has acknowledged the message (40_bus_fsm.md R138). -/
def Bus.messageAcked (b : Bus) : Bus :=
  if b.handshake then { b with messageCompleted := true }.setReq false else b

/-- `MessageInHandler()` (40_bus_fsm.md R138). -/
def Bus.messageInHandler (b : Bus) : Bus :=
  let b := b.messageAcked
  if b.handshakeIdle && b.messageCompleted then { b with messageCompleted := false }.setPhase .busFree else b

/-- The first half of `StatusHandler()`: the host has acknowledged the status (40_bus_fsm.md R139). -/
def Bus.statusAcked (b : Bus) : Bus :=
  if b.handshake then { b with statusCompleted := true }.setReq false else b

/-- `StatusHandler()` (40_bus_fsm.md R139). -/
def Bus.statusHandler (b : Bus) : Bus :=
  let b := b.statusAcked
  if b.handshakeIdle && b.statusCompleted then
    { b with statusCompleted := false, dataBits := b.messageValue }.setPhase .messageIn
  else b

/-- `DataOutHandler()`: the stub to bus free (40_bus_fsm.md R140). -/
def Bus.dataOutHandler (b : Bus) : Bus := b.setPhase .busFree

/-- `MessageOutHandler()`: the stub to bus free (40_bus_fsm.md R142). -/
def Bus.messageOutHandler (b : Bus) : Bus := b.setPhase .busFree

/-! ## The Command handler -/

/-- What `CheckCommandBuffer` returns after executing a command: whether the command buffer is cleared
(41_scsi_commands.md R170, R178). The synthesis variants are no CDBs and are never asked for. -/
def clearsCommandBuffer (i : Instr) (p : Params) : Bool :=
  match i with
  | .testUnitReady => true
  | .read _ _ => true
  | .audioStartPos _ _ => true
  | .audioEndPos _ _ => true
  | .pause => true
  | .readSubcodeQ => true
  | .readToc _ => true
  | .unrecognized _ => p.unrecognizedClearsCdb
  | .synthMode1_2048 _ => true
  | .synthGap_2048 _ => true
  | .synthRaw_2352 _ => true
  | .synthGap_2352 _ => true

/-- What the Command handler does after an executed command: clear the command buffer, or ask for more bytes
(40_bus_fsm.md R136). A command that raised a fault aborted the handler: nothing more is written (60_exceptions.md R300). -/
def State.afterCommand (s : State) (clears : Bool) : State :=
  if s.faulted then s
  else if clears then { s with bus := { s.bus with commandBuffer := [] } }
  else { s with bus := s.bus.setReq true }

/-- Whether a READ waits behind bytes that it found queued, where `queuedBytesFirst` holds: its deadline is past, the bus is
in Command with REQ and ACK low and no CDB byte, as READ leaves it (41_scsi_commands.md R172), and no sector may load. -/
def State.queuedDue (s : State) : Bool :=
  s.params.queuedBytesFirst && s.bus.dataReadInProgress && decide (s.bus.dataReadWaitTimer < s.now) &&
    decide (s.bus.phase = .command) && s.bus.handshakeIdle && s.bus.commandBuffer.isEmpty && !s.bus.dataIn.isEmpty

/-- The bytes queued before a READ are delivered first (70_reset_and_hazards.md R347, last item; 41_scsi_commands.md R172,
corner cases): the Command handler hands over to DataIn with the queue as it is. Nothing where `queuedBytesFirst` is false,
the default (log 32). -/
def State.deliverQueued (s : State) : State :=
  { s with bus := if s.queuedDue then s.bus.setPhase .dataIn else s.bus }

/-- The decode half of `CommandHandler(now)`: with REQ and ACK low and a byte received, execute the command or ask for
more bytes (40_bus_fsm.md R136, 41_scsi_commands.md R170); else nothing, but for `State.deliverQueued`. -/
def commandDecode (s : State) : Host.Outcome State Fault Refusal :=
  if s.bus.handshakeIdle && !s.bus.commandBuffer.isEmpty then
    match decodeCdb s.params.opcodes s.bus.commandBuffer with
    | .error _ => .next { s with bus := s.bus.setReq true }
    | .ok i => andThen (exec i s) fun t => .next (t.afterCommand (clearsCommandBuffer i s.params))
  else .next s.deliverQueued

/-- `CommandHandler(now)` (40_bus_fsm.md R136): latch a byte, or raise F9, and then decode. -/
def commandHandler (s : State) : Host.Outcome State Fault Refusal :=
  if s.bus.handshake then
    if Config.cdbMax ≤ s.bus.commandBuffer.length then .next (s.raise (.cdbOverflow s.bus.commandBuffer))
    else commandDecode { s with
      bus := { s.bus with commandBuffer := s.bus.commandBuffer ++ [s.bus.dataBits] }.setReq false }
  else commandDecode s

/-! ## Advance -/

/-- `Pass(now)`: selection, then attention, then the handler of the phase (40_bus_fsm.md R132). -/
def busPass (s : State) : Host.Outcome State Fault Refusal :=
  if s.bus.sig.sel && !s.bus.sig.bsy then .next { s with bus := s.bus.setPhase .command }
  else if s.bus.sig.atn && s.bus.handshakeIdle then .next { s with bus := s.bus.setPhase .messageOut }
  else
    match s.bus.phase with
    | .busFree => .next s
    | .command => commandHandler s
    | .dataIn => .next { s with bus := s.bus.dataInHandler }
    | .dataOut => .next { s with bus := s.bus.dataOutHandler }
    | .messageIn => .next { s with bus := s.bus.messageInHandler }
    | .messageOut => .next { s with bus := s.bus.messageOutHandler }
    | .status => .next { s with bus := s.bus.statusHandler }

/-- Whether a pass changed a signal or the phase (40_bus_fsm.md R131). -/
def Bus.settled (before after : Bus) : Bool :=
  decide (before.sig = after.sig) && decide (before.phase = after.phase)

/-- The settle loop with `n` changing passes still allowed; when none is left, F1 (40_bus_fsm.md R131). -/
def settle : Nat → State → Host.Outcome State Fault Refusal
  | 0, s => .next (s.raise (.noSettle s.bus.phase s.bus.sig))
  | n + 1, s => andThen (busPass s) fun t =>
      if t.faulted then .next t
      else if Bus.settled s.bus t.bus then .next t
      else settle n t

/-- Whether a sector load is due (40_bus_fsm.md R141). The queue is empty once its last byte is presented, so the next
sector loads at the first Advance after that (70_reset_and_hazards.md R352). DESIGN CHOICE (log 31), unsafe: R347 and
95_test_vectors.md P2 name the later Advance that releases ACK. While bytes of any origin are
queued no load is due; a READ that finds some: `State.deliverQueued` (log 32). -/
def State.loadDue (s : State) : Bool :=
  s.bus.dataReadInProgress && decide (s.bus.dataReadWaitTimer < s.now) && s.bus.dataIn.isEmpty

/-- The fields a sector load writes once its bytes are queued (40_bus_fsm.md R141). -/
def Bus.afterLoad (b : Bus) (left : Nat) : Bus :=
  let b := { b with currentReadingSector := b.currentReadingSector + 1, sectorsLeftToRead := left,
                    intDataTransferReady := true }
  let b := if left = 0 then { b with dataReadInProgress := false, dataTransferWasDone := true } else b
  b.setPhase .dataIn

/-- `SectorLoad(now)` (40_bus_fsm.md R141). -/
def State.sectorLoad (s : State) : State :=
  if s.loadDue then
    let lba := s.bus.currentReadingSector
    let bytes := s.disc.readBlock lba Config.sectorUserBytes
    let t := s.called [.blockRead lba Config.sectorUserBytes]
    if bytes.length = Config.sectorUserBytes then
      t.enqueueThen bytes fun u =>
        { u with bus := u.bus.afterLoad (sectorsAfterLoad u.bus.sectorsLeftToRead u.freeCount)
                 freeCount := drawsAfterLoad u.bus.sectorsLeftToRead u.freeCount }
    else t.raise (.sectorSize lba)
  else s

/-- `Advance(now)` (40_bus_fsm.md R130). -/
def State.advance (s : State) (now : Nat) : Host.Outcome State Fault Refusal :=
  if s.faulted then .next s
  else
    let s := { s with now := now }
    if s.bus.sig.rst then .next s.deviceReset
    else if s.sectorLoad.faulted then .next s.sectorLoad
    else settle Config.settleBound s.sectorLoad

end Sys2Proof.Machine
end

