-- ==== Sys2Proof/Machine/HostOps.lean ====
section
/-! DEFINITION. What each operation of the host does (40_bus_fsm.md R130, R143 to R147; 43_sector_synth.md R251), and how
an opcode-table word is placed for the next step. -/

namespace Sys2Proof.Machine

/-- `WriteSignal(L, b)`: only the named line changes (40_bus_fsm.md R143). -/
def State.writeSignal (s : State) (l : Line) (b : Bool) : State :=
  { s with bus := { s.bus with sig := s.bus.sig.set l b } }

/-- `WriteData(v)` (40_bus_fsm.md R143). -/
def State.writeData (s : State) (v : Byte) : State :=
  { s with bus := { s.bus with dataBits := v } }

/-- `AckInterrupt()` (40_bus_fsm.md R146). -/
def State.ackInterrupt (s : State) : State :=
  { s with bus := { s.bus with intDataTransferComplete := false } }

/-- A read answers and changes nothing of the device (40_bus_fsm.md R144). -/
def State.reply (s : State) (r : HostReply) : State := { s with replies := s.replies ++ [r] }

/-- `Load(image)`: refused, with no effect, while a fault is recorded (40_bus_fsm.md R147, 60_exceptions.md R303). -/
def State.load (s : State) (image : Bus) : State :=
  if s.faulted then s else { s with bus := image }

/-- The destination buffer of the jobs that follow (10_state.md R42). -/
def State.provideDest (s : State) (bytes : List Byte) : State :=
  { s with dest := cellsOf 0 bytes, destLen := bytes.length }

/-- The audio player moves on its own (60_exceptions.md R323, 93_implementation_defined.md T31). -/
def State.audioMoves (s : State) (mode : AudioMode) (sector : Int) : State :=
  { s with audio := { s.audio with mode := mode, currentSector := sector } }

/-- `Synth(job)`: the variant tag selects the instruction (43_sector_synth.md R251); an unknown tag is refused by its
checks (R250). -/
def synthOp (d : JobDescriptor) (s : State) : Host.Outcome State Fault Refusal :=
  match decodeJob d with
  | .ok i => exec i s
  | .error _ => .next (s.synthUnknown d)

/-- One operation of the host, performed whole (20_memory.md R72, R74). -/
def perform (op : HostOp) (s : State) : Host.Outcome State Fault Refusal :=
  match op with
  | .writeSignal l b => .next (s.writeSignal l b)
  | .writeData v => .next (s.writeData v)
  | .advance now => s.advance now
  | .reset => .next s.deviceReset
  | .ackInterrupt => .next s.ackInterrupt
  | .readSignals =>
    .next (s.reply (.signals s.bus.sig s.bus.intDataTransferReady s.bus.intDataTransferComplete))
  | .readData => .next (s.reply (.data s.bus.dataBits))
  | .readFault => .next (s.reply (.fault s.fault))
  | .save => .next (s.reply (.image s.bus))
  | .load image => .next (s.load image)
  | .synth d => synthOp d s
  | .provideDest bytes => .next (s.provideDest bytes)
  | .audioMoves mode sector => .next (s.audioMoves mode sector)

/-- The next operation of the host. Where the host makes none, the device does nothing (60_exceptions.md R333). -/
def nextOperation (s : State) : Host.Outcome State Fault Refusal :=
  match s.inputs with
  | [] => .next s
  | op :: rest => perform op { s with inputs := rest }

/-- The signal lines as the last byte's handshake of a CDB leaves them: the Command entry lines with REQ and ACK low
(40_bus_fsm.md R136, 95_test_vectors.md P1 step 12 and 13). -/
def Signals.cdbReceived : Signals :=
  { Signals.allLow.enter (entrySet .command) with req := false }

/-- The device with a CDB received whole: the Command phase, the CDB in the command buffer, the host's ACK released, and
no sector load that could come first (40_bus_fsm.md R136, R141). -/
def Bus.withCdb (b : Bus) (cdb : List Byte) : Bus :=
  { b with sig := Signals.cdbReceived, phase := .command, commandBuffer := cdb, dataReadInProgress := false }

/-- A CDB received whole, no fault, and the host's next operation an `Advance` at the clock's present value. -/
def State.withCdb (s : State) (cdb : List Byte) : State :=
  { s with bus := s.bus.withCdb cdb, fault := none, inputs := .advance s.now :: s.inputs }

/-- The CDB of an opcode-table word, as long as its byte 0 implies (30_encoding.md R91). -/
def wordCdb (o : Opcodes) (nbits w : Nat) : List Byte :=
  let bytes := wordBytes nbits w
  bytes.take (cdbLength o (cdbByte bytes 0))

end Sys2Proof.Machine
end

