-- ==== Sys2Proof/Machine/Step.lean ====
section
/-! DEFINITION. One step of the machine: the next operation of the host, performed whole. -/

namespace Sys2Proof.Machine

/-- One step: the host's next operation (20_memory.md R74). A step that is an `Advance` with a complete CDB in the command
buffer executes its command. -/
def step (s : State) : Host.Outcome State Fault Refusal := nextOperation s

/-- `s` with an opcode-table word where the next step takes its instruction from: a CDB received whole. -/
def State.withFetchWord (s : State) (nbits w : Nat) : State := s.withCdb (wordCdb s.params.opcodes nbits w)

end Sys2Proof.Machine
end

