-- ==== Sys2Proof/Safety.lean ====
section
/-! DEFINITION. What a safe run is: no fault recorded (60_exceptions.md R300), at every one of the steps. -/

namespace Sys2Proof

/-- A state with no fault recorded. -/
def Machine.State.safe (s : Machine.State) : Prop := s.fault = none

/-- A state from which `n` steps are all next states with no fault recorded. -/
def safeFor : Nat → Machine.State → Prop
  | 0, s => s.safe
  | n + 1, s => s.safe ∧ ∃ t, Machine.step s = .next t ∧ safeFor n t

end Sys2Proof
end

