-- ==== Sys2Proof/WellFormed.lean ====
section
/-! DEFINITION. Which instructions the encodings of 30_encoding.md admit. The opcode bytes that the checks need are
encodings, so this file imports Decode. -/

namespace Sys2Proof

/-- The job-descriptor checks of 43_sector_synth.md R250 that need no state: known part bits and a mode of 1 or 2. -/
def SynthJob.wellFormed (job : SynthJob) : Bool :=
  decide (job.parts < 2 ^ partBits) && (decide (job.mode = 1) || decide (job.mode = 2))

/-- A job of a 2048-byte variant asks for EDC/ECC only in mode 1 (43_sector_synth.md R256). -/
def SynthJob.ecmNeedsMode1 (job : SynthJob) : Bool :=
  !(job.has .ecmAny) || decide (job.mode = 1)

/-- A sub-function is `other` only from 3 on (30_encoding.md R98, R103). -/
def TocRequest.wellFormed : TocRequest → Bool
  | .trackCount => true
  | .discLength => true
  | .trackStart _ => true
  | .other fn => decide (3 ≤ fn.toNat)

/-- The instructions that some encoded form stands for, the opcode bytes being `o`, and that the rules do not refuse as a job descriptor
(30_encoding.md R99, R103, R114; 43_sector_synth.md R256). -/
def Instr.wellFormed (i : Instr) (o : Opcodes) : Bool :=
  match i with
  | .testUnitReady => true
  | .read _ _ => true
  | .audioStartPos _ _ => true
  | .audioEndPos _ _ => true
  | .pause => true
  | .readSubcodeQ => true
  | .readToc req => req.wellFormed
  | .unrecognized op => decide (op ∉ o.assigned)
  | .synthMode1_2048 job => job.wellFormed && job.ecmNeedsMode1
  | .synthGap_2048 job => job.wellFormed && job.ecmNeedsMode1
  | .synthRaw_2352 job => job.wellFormed
  | .synthGap_2352 job => job.wellFormed

end Sys2Proof
end

