-- ==== Sys2Proof/Certificates/Slice0/Obligations.lean ====
section
/-! DEFINITION. The statements for the provers: what the numbered rules of spec/ say of the encodings, the commands, the
bus engine, faults and reset, and the synthesizer. `Sys2Proof.Claims` spells out, from the rules and not from the model's
own definitions, what the statements share. -/

namespace Sys2Proof.Claims
open Machine

/-! ## Shared vocabulary -/

/-- The outcome of a step or of an instruction. -/
abbrev Answer := Host.Outcome State Fault Refusal

/-- The lines with BSY, MSG, CD, IO and REQ written, in the column order of 30_encoding.md R105. -/
def lines (g : Signals) (bsy msg cd io req : Bool) : Signals :=
  { g with bsy := bsy, msg := msg, cd := cd, io := io, req := req }

/-- The device once the Status phase is entered with GOOD and COMMAND COMPLETE (40_bus_fsm.md R133, R134); a device that
is in Status already keeps its lines. -/
def inStatus (b : Bus) : Bus :=
  { b with
    messageValue := messageCommandComplete, statusCompleted := false, messageCompleted := false,
    dataBits := statusGood, phase := .status,
    sig := if b.phase = .status then b.sig else lines b.sig true false true true true }

/-- The device once the DataIn phase is entered with a queue (40_bus_fsm.md R133; 41_scsi_commands.md R176, R177). -/
def inDataIn (b : Bus) (queue : List Byte) : Bus :=
  { b with
    dataIn := queue, phase := .dataIn,
    sig := if b.phase = .dataIn then b.sig else lines b.sig true false false true false }

/-- The device in another phase, entered by SetPhase with the given lines (40_bus_fsm.md R133). -/
def inPhase (b : Bus) (p : BusPhase) (bsy msg cd io req : Bool) : Bus :=
  if b.phase = p then b else { b with phase := p, sig := lines b.sig bsy msg cd io req }

/-- SEL asserted with BSY deasserted: the selection condition (40_bus_fsm.md R132). -/
abbrev selecting (b : Bus) : Prop := b.sig.sel = true ∧ b.sig.bsy = false

/-- REQ and ACK both asserted. -/
abbrev bothHigh (b : Bus) : Prop := b.sig.req = true ∧ b.sig.ack = true

/-- REQ and ACK both deasserted. -/
abbrev bothLow (b : Bus) : Prop := b.sig.req = false ∧ b.sig.ack = false

/-- A sector load is due at a clock value (40_bus_fsm.md R141). -/
abbrev due (b : Bus) (now : Nat) : Prop :=
  b.dataReadInProgress = true ∧ b.dataReadWaitTimer < now ∧ b.dataIn = []

/-- A READ waits in Command behind bytes queued before it, its deadline past (log 32). -/
abbrev behindQueue (b : Bus) (now : Nat) : Prop :=
  b.dataReadInProgress = true ∧ b.dataReadWaitTimer < now ∧ b.phase = .command ∧ b.sig.req = false ∧
    b.commandBuffer = [] ∧ b.dataIn ≠ []

/-- The next operation is an Advance that neither a fault, nor RST, nor a due sector load takes (40_bus_fsm.md R130). -/
abbrev advances (s : State) (now : Nat) (rest : List HostOp) : Prop :=
  s.inputs = .advance now :: rest ∧ s.fault = none ∧ s.bus.sig.rst = false ∧ ¬ due s.bus now

/-- The state an Advance leaves where only the device changes. -/
def advanced (s : State) (now : Nat) (rest : List HostOp) (b : Bus) : State :=
  { s with inputs := rest, now := now, bus := b }

/-- A byte whose two nibbles are decimal digits (42_codecs.md R210). -/
abbrev validBcd (b : Byte) : Prop := b.toNat / 16 ≤ 9 ∧ b.toNat % 16 ≤ 9

/-- The two decimal digits of n as one byte (42_codecs.md R212). -/
def bcdOf (n : Nat) : Byte := BitVec.ofNat 8 (16 * (n / 10) + n % 10)

/-- The three BCD bytes, minute first, of an LBA that has a time (42_codecs.md R213). -/
def timeBytes (lba : Int) : List Byte :=
  let a := (lba + 150).toNat
  [bcdOf (a / 4500), bcdOf (a / 75 % 60), bcdOf (a % 75)]

/-- An LBA that has a time (42_codecs.md R213). -/
abbrev hasTime (lba : Int) : Prop := -150 ≤ lba ∧ lba ≤ 449849

/-! ## Tracks (41_scsi_commands.md R177, R180) -/

/-- Track 0 reads as track 1. -/
def atLeastOne (n : Nat) : Nat := if n = 0 then 1 else n

/-- A track above the count: the lead-out is read for it. -/
abbrev beyond (toc : Toc) (n : Nat) : Prop := toc.tracks.length < atLeastOne n

/-- Track t of the first session, for 1 ≤ t ≤ count. -/
abbrev isTrack (toc : Toc) (n : Nat) (tr : TocTrack) : Prop := toc.tracks[atLeastOne n - 1]? = some tr

/-! ## The synthesizer (43_sector_synth.md) -/

/-- The instruction of a variant tag (30_encoding.md R115). -/
def synthInstr (variant : Nat) (job : SynthJob) : Instr :=
  match variant with
  | 0 => .synthMode1_2048 job
  | 1 => .synthGap_2048 job
  | 2 => .synthRaw_2352 job
  | _ => .synthGap_2352 job

/-- The part bits of 30_encoding.md R114. -/
abbrev user (job : SynthJob) : Prop := job.parts.testBit 0 = true
/-- Header16. -/
abbrev header (job : SynthJob) : Prop := job.parts.testBit 1 = true
/-- ECMAny. -/
abbrev ecm (job : SynthJob) : Prop := job.parts.testBit 2 = true
/-- SubchannelP. -/
abbrev chanP (job : SynthJob) : Prop := job.parts.testBit 3 = true
/-- SubchannelQ. -/
abbrev chanQ (job : SynthJob) : Prop := job.parts.testBit 4 = true
/-- Subchannel_RSTUVW. -/
abbrev chanRW (job : SynthJob) : Prop := job.parts.testBit 5 = true
/-- SubcodeDeinterleave. -/
abbrev deint (job : SynthJob) : Prop := job.parts.testBit 6 = true
/-- Any main-channel part (43_sector_synth.md R257). -/
abbrev anyMain (job : SynthJob) : Prop := user job ∨ header job ∨ ecm job
/-- Any subchannel part (43_sector_synth.md R259). -/
abbrev anySub (job : SynthJob) : Prop := chanP job ∨ chanQ job ∨ chanRW job

/-- The fault that the checks of a job end in, if any, in their order (43_sector_synth.md R250). -/
def refusal (variant : Nat) (job : SynthJob) (destLen : Nat) : Option FaultRecord :=
  if destLen < job.off + 2448 then some (.frameBounds job.off)
  else if 2 ^ 7 ≤ job.parts then some (.jobRefused (.parts job.parts))
  else if 4 ≤ variant then some (.jobRefused (.variant variant))
  else if job.mode ≠ 1 ∧ job.mode ≠ 2 then some (.jobRefused (.mode job.mode))
  else if variant < 2 ∧ ecm job ∧ job.mode ≠ 1 then some (.jobRefused (.mode job.mode))
  else if variant < 2 ∧ header job ∧ ¬ hasTime job.lba then some (.msfRange job.lba)
  else none

/-- The length a variant asks the block source for, if it asks (43_sector_synth.md R252, R255, R257, R258). -/
abbrev asked (variant : Nat) (job : SynthJob) (length : Nat) : Prop :=
  (variant = 0 ∧ user job ∧ length = 2048) ∨ (variant = 2 ∧ anyMain job ∧ length = 2352)

/-- A job that runs to its end: no fault recorded, no check fails, and the block answer, if asked for, has its length. -/
def runs (variant : Nat) (job : SynthJob) (s : State) : Prop :=
  s.fault = none ∧ refusal variant job s.destLen = none ∧
    ∀ n, asked variant job n → (s.disc.readBlock job.lba n).length = n

/-- The bytes of the main-channel source of a 2048-byte variant. -/
def userBytes (variant : Nat) (job : SynthJob) (s : State) : List Byte :=
  if variant = 0 then s.disc.readBlock job.lba 2048 else List.replicate 2048 0x00

/-- Byte k of the frame of a job. -/
def frameByte (s : State) (job : SynthJob) (k : Nat) : Byte := s.dest.readByte (job.off + k)

/-- Bytes k to k + n - 1 of the frame of a job. -/
def frameBytes (s : State) (job : SynthJob) (k n : Nat) : List Byte := s.dest.readBytes (job.off + k) n

/-- Frame indices that a job may write, after the table of 43_sector_synth.md R264 and the writes of R252 to R262. -/
abbrev mayWrite (variant : Nat) (job : SynthJob) (k : Nat) : Prop :=
  (variant < 2 ∧ ((user job ∧ 16 ≤ k ∧ k < 2064) ∨ (header job ∧ k < 16) ∨ (ecm job ∧ 2064 ≤ k ∧ k < 2352))) ∨
  (2 ≤ variant ∧ anyMain job ∧ k < 2352) ∨
  (chanP job ∧ 2352 ≤ k ∧ k < 2364) ∨ (chanQ job ∧ 2364 ≤ k ∧ k < 2376) ∨ (chanRW job ∧ 2376 ≤ k ∧ k < 2448) ∨
  (anySub job ∧ ¬ deint job ∧ 2352 ≤ k ∧ k < 2448)

/-- Column `major` of the P code: 24 bytes of the frame and two parity bytes (42_codecs.md R218, R219). -/
def columnP (s : State) (job : SynthJob) (major : Nat) : List Byte :=
  (List.range 24).map (fun minor => frameByte s job (12 + (major + 86 * minor)))
    ++ [frameByte s job (2076 + major), frameByte s job (2076 + major + 86)]

/-- Diagonal `major` of the Q code: 43 bytes of the frame and two parity bytes (42_codecs.md R218, R220). -/
def diagonalQ (s : State) (job : SynthJob) (major : Nat) : List Byte :=
  (List.range 43).map (fun minor => frameByte s job (12 + ((major / 2) * 86 + major % 2 + 88 * minor) % 2236))
    ++ [frameByte s job (2248 + major), frameByte s job (2248 + major + 52)]

/-- Both syndromes of a column are zero: the sum of its bytes, and the sum weighted by powers of α (42_codecs.md R217,
R218). -/
abbrev codeword (column : List Byte) : Prop :=
  column.foldl (fun sum t => sum ^^^ t) 0#8 = 0#8 ∧
  column.foldl (fun sum t => gfDouble (sum ^^^ t)) 0#8 = 0#8

/-- One bit of the EDC's shift register, least significant bit first (42_codecs.md R215). -/
def edcBitSerial (e : Word32) : Word32 :=
  if e.getLsbD 0 then (e >>> 1) ^^^ 0xD8018001#32 else e >>> 1

/-- One byte fed into the shift register: eight bits (42_codecs.md R215). -/
def edcByteSerial (e : Word32) (b : Byte) : Word32 := Nat.repeat edcBitSerial 8 (e ^^^ b.setWidth 32)

/-- One bit of the Q CRC's shift register, most significant bit first (42_codecs.md R221). -/
def crcBitSerial (c : Word16) : Word16 :=
  if c.getLsbD 15 then (c <<< 1) ^^^ 0x1021#16 else c <<< 1

/-- One byte fed into the shift register of the Q CRC: eight bits (42_codecs.md R221). -/
def crcByteSerial (c : Word16) (b : Byte) : Word16 := Nat.repeat crcBitSerial 8 (c ^^^ (b.setWidth 16 <<< 8))

/-- The deinterleaved subcode region after the channel steps (43_sector_synth.md R259 to R261). -/
def channels (job : SynthJob) (old : List Byte) : List Byte :=
  (if chanP job then List.replicate 12 (if job.pause then 0xFF else 0x00) else old.take 12) ++
  (if chanQ job then qBytes job.q else (old.drop 12).take 12) ++
  (if chanRW job then List.replicate 72 0x00 else old.drop 24)

/-! ## The bus -/

/-- The bounds of 10_state.md R24, R25, R27 and the condition of 42_codecs.md R225 under which a sector load finds the
counter positive. -/
abbrev busBounds (b : Bus) : Prop :=
  b.commandBuffer.length ≤ 10 ∧ b.dataIn.length ≤ 2048 ∧ b.sectorsLeftToRead ≤ 256 ∧
    (b.dataReadInProgress = true → 0 < b.sectorsLeftToRead)

/-- The invariant of a run: the device's bounds, the destination buffer in its canonical form and inside its length, no F8
(60_exceptions.md R301), and no image to be restored that breaks the device's bounds. -/
def invariant (s : State) : Prop :=
  busBounds s.bus ∧ s.dest.wf ∧ (∀ c ∈ s.dest, c.1 < s.destLen) ∧ s.fault ≠ some .queueOverflow ∧
    ∀ image, HostOp.load image ∈ s.inputs → busBounds image

/-- Two states that agree on the persisted fields, the fault record, the parameters, the collaborators, the length of the
destination and the host's operations to come: only the destination's bytes, the last `now`, the number of free values drawn
and the records of calls and answers may tell them apart. -/
abbrev sameRun (s t : State) : Prop :=
  s.bus = t.bus ∧ s.fault = t.fault ∧ s.params = t.params ∧ s.audio = t.audio ∧ s.disc = t.disc ∧
    s.destLen = t.destLen ∧ s.inputs = t.inputs

/-- A pass changed a line or the phase (40_bus_fsm.md R131). -/
abbrev changed (s t : State) : Prop := s.bus.sig ≠ t.bus.sig ∨ s.bus.phase ≠ t.bus.phase

end Sys2Proof.Claims

section
open Sys2Proof Sys2Proof.Machine Sys2Proof.Claims

/-! ## Encodings -/

/-- 30_encoding.md sections 2, 3 and 9: decoding what the encoder writes gives the instruction back, for every well-formed
instruction; an encoded CDB is as long as its byte 0 says; and whatever the decoder reads is well-formed but for a job,
whose checks are its own. For every choice of distinct opcode bytes (R99). -/
def Obligations.DecodeOfEncodeIsIdentity : Prop :=
  ∀ o : Opcodes, o.distinct →
    (∀ i : Instr, i.wellFormed o = true → decode o (encode o i) = .ok i ∧
      ∀ op rest, encode o i = .cdb (op :: rest) → (op :: rest).length = cdbLength o op) ∧
    ∀ (cdb : List Byte) (i : Instr), decodeCdb o cdb = .ok i → i.wellFormed o = true

/-- 30_encoding.md sections 2 to 6: words written out from the spec decode to the instructions they stand for, at the
default opcode bytes (UNVERIFIED, log 4). R98, R103: byte 1 of READ_TOC selects the sub-function, for every choice of the
opcode bytes. R115: the tag of a job selects its variant. -/
def Obligations.SpecWordsDecode : Prop :=
  decodeCdb Opcodes.defaults [0x00, 0x00, 0x00, 0x00, 0x00, 0x00] = .ok .testUnitReady ∧
  decodeCdb Opcodes.defaults [0x08, 0x00, 0x00, 0x10, 0x02, 0x00] = .ok (.read 0x000010 0x02) ∧
  decodeCdb Opcodes.defaults [0xD8, 0x01, 0x02, 0x00, 0x00, 0x00, 0x00, 0x00, 0x00, 0x40] =
    .ok (.audioStartPos 0x01 (.msf 0x02 0x00 0x00)) ∧
  decodeCdb Opcodes.defaults [0xD9, 0x03, 0x00, 0x00, 0x4C, 0x2C, 0x00, 0x00, 0x00, 0x00] =
    .ok (.audioEndPos 0x03 (.lba 0x004C2C)) ∧
  decodeCdb Opcodes.defaults [0xDA, 0x00, 0x00, 0x00, 0x00, 0x00, 0x00, 0x00, 0x00, 0x00] = .ok .pause ∧
  decodeCdb Opcodes.defaults [0xDD, 0x00, 0x00, 0x00, 0x00, 0x00, 0x00, 0x00, 0x00, 0x00] = .ok .readSubcodeQ ∧
  decodeCdb Opcodes.defaults [0xDE, 0x02, 0x01, 0x00, 0x00, 0x00, 0x00, 0x00, 0x00, 0x00] = .ok (.readToc (.trackStart 0x01)) ∧
  decodeCdb Opcodes.defaults [0xDE, 0x00, 0x01, 0x00, 0x00, 0x00, 0x00, 0x00, 0x00, 0x00] = .ok (.readToc .trackCount) ∧
  decodeCdb Opcodes.defaults [0xDE, 0x01, 0x01, 0x00, 0x00, 0x00, 0x00, 0x00, 0x00, 0x00] = .ok (.readToc .discLength) ∧
  decodeCdb Opcodes.defaults [0xDE, 0x03, 0x01, 0x00, 0x00, 0x00, 0x00, 0x00, 0x00, 0x00] = .ok (.readToc (.other 0x03)) ∧
  decodeCdb Opcodes.defaults [0x12] = .ok (.unrecognized 0x12) ∧
  (∀ o : Opcodes, o.distinct → ∀ fn b2 b3 b4 b5 b6 b7 b8 b9 : Byte,
    decodeCdb o [o.readToc, fn, b2, b3, b4, b5, b6, b7, b8, b9] = .ok (.readToc (
      if fn = 0 then .trackCount else if fn = 1 then .discLength else if fn = 2 then .trackStart b2 else .other fn))) ∧
  ∀ job : SynthJob,
    decodeJob ⟨0, job⟩ = .ok (.synthMode1_2048 job) ∧ decodeJob ⟨1, job⟩ = .ok (.synthGap_2048 job) ∧
    decodeJob ⟨2, job⟩ = .ok (.synthRaw_2352 job) ∧ decodeJob ⟨3, job⟩ = .ok (.synthGap_2352 job) ∧
    (∀ tag, tag < 4 → decodeJob ⟨tag, job⟩ = .ok (synthInstr tag job)) ∧
    ∀ tag, 4 ≤ tag → decodeJob ⟨tag, job⟩ = .error (.unknownVariant tag)

/-- 30_encoding.md R95: the control byte and the address of an AUDIO_START_POS or AUDIO_END_POS CDB, by bits 7:6 of
byte 9. The positions of the address bytes are UNVERIFIED (log 21): the spec marks them as general knowledge. -/
def Obligations.AudioFieldsOfCdb : Prop :=
  ∀ o : Opcodes, o.distinct → ∀ b1 b2 b3 b4 b5 b6 b7 b8 b9 : Byte, ∃ addr : AudioAddr,
    decodeCdb o [o.audioStartPos, b1, b2, b3, b4, b5, b6, b7, b8, b9] = .ok (.audioStartPos b1 addr) ∧
    decodeCdb o [o.audioEndPos, b1, b2, b3, b4, b5, b6, b7, b8, b9] = .ok (.audioEndPos b1 addr) ∧
    (b9 &&& 0xC0 = 0x00 → ∃ a, addr = .lba a ∧ a.toNat = b3.toNat * 65536 + b4.toNat * 256 + b5.toNat) ∧
    (b9 &&& 0xC0 = 0x40 → addr = .msf b2 b3 b4) ∧
    (b9 &&& 0xC0 = 0x80 → addr = .track b2) ∧
    (b9 &&& 0xC0 = 0xC0 → addr = .reserved)

/-- 30_encoding.md R91, R99, R102: byte 0 alone gives the length of a CDB; a shorter one needs more data, a longer or equal
one is a command, and an opcode of no row is executed from its first byte. For every choice of the opcode bytes. -/
def Obligations.CdbLengthFromFirstByte : Prop :=
  ∀ (o : Opcodes) (op : Byte) (rest : List Byte),
    (let need := if op = o.testUnitReady ∨ op = o.read then 6
      else if op = o.audioStartPos ∨ op = o.audioEndPos ∨ op = o.pause ∨ op = o.readSubcodeQ ∨ op = o.readToc then 10
      else 1
    ((∃ i, decodeCdb o (op :: rest) = .ok i) ↔ need ≤ rest.length + 1) ∧
    (rest.length + 1 < need → decodeCdb o (op :: rest) = .error (.needMoreData (rest.length + 1) need))) ∧
    (op ∉ [o.testUnitReady, o.read, o.audioStartPos, o.audioEndPos, o.pause, o.readSubcodeQ, o.readToc] →
      decodeCdb o (op :: rest) = .ok (.unrecognized op))

/-- 30_encoding.md R101: no bit that R92 to R98 do not name has an effect; two complete CDBs of one command that agree on
the named bits are the same instruction. -/
def Obligations.IgnoredBitsHaveNoEffect : Prop :=
  ∀ o : Opcodes, o.distinct → ∀ b c : Fin 9 → Byte,
    let six (op : Byte) (v : Fin 9 → Byte) : List Byte := [op, v 0, v 1, v 2, v 3, v 4]
    let ten (op : Byte) (v : Fin 9 → Byte) : List Byte := [op, v 0, v 1, v 2, v 3, v 4, v 5, v 6, v 7, v 8]
    decodeCdb o (six o.testUnitReady b) = decodeCdb o (six o.testUnitReady c) ∧
    (b 0 &&& 0x1F = c 0 &&& 0x1F ∧ b 1 = c 1 ∧ b 2 = c 2 ∧ b 3 = c 3 →
      decodeCdb o (six o.read b) = decodeCdb o (six o.read c)) ∧
    (∀ op, op = o.audioStartPos ∨ op = o.audioEndPos → b 0 = c 0 → b 8 &&& 0xC0 = c 8 &&& 0xC0 →
      (b 8 &&& 0xC0 = 0x00 → b 2 = c 2 ∧ b 3 = c 3 ∧ b 4 = c 4) →
      (b 8 &&& 0xC0 = 0x40 → b 1 = c 1 ∧ b 2 = c 2 ∧ b 3 = c 3) →
      (b 8 &&& 0xC0 = 0x80 → b 1 = c 1) →
      decodeCdb o (ten op b) = decodeCdb o (ten op c)) ∧
    decodeCdb o (ten o.pause b) = decodeCdb o (ten o.pause c) ∧
    decodeCdb o (ten o.readSubcodeQ b) = decodeCdb o (ten o.readSubcodeQ c) ∧
    (b 0 = c 0 → (b 0 = 2 → b 1 = c 1) →
      decodeCdb o (ten o.readToc b) = decodeCdb o (ten o.readToc c)) ∧
    ∀ (op : Byte) (v w : List Byte), op ∉ o.assigned → decodeCdb o (op :: v) = decodeCdb o (op :: w)

/-! ## A step runs the decoded instruction -/

/-- 40_bus_fsm.md R130 to R132, R136: an Advance in the Command phase, with no fault, RST, due sector load, selection or
attention before it and REQ and ACK low, executes the command that the command buffer decodes to; then the buffer is
cleared (or REQ set), and the settle loop goes on with the 63 passes left unless a fault was raised or nothing changed.
41_scsi_commands.md R170: for each of the seven commands the buffer is cleared. 43_sector_synth.md R251: a job is executed by
its variant's instruction. -/
def Obligations.StepRunsDecodedInstruction : Prop :=
  (∀ (s : State) (now : Nat) (rest : List HostOp) (i : Instr),
    advances s now rest → s.bus.phase = .command → ¬ selecting s.bus → bothLow s.bus → s.bus.sig.atn = false →
    decodeCdb s.params.opcodes s.bus.commandBuffer = .ok i →
    ∃ v w : State, exec i (advanced s now rest s.bus) = .next v ∧
      w = (if v.fault ≠ none then v
        else if clearsCommandBuffer i s.params then { v with bus := { v.bus with commandBuffer := [] } }
        else { v with bus := { v.bus with sig := { v.bus.sig with req := true } } }) ∧
      step s = (if w.fault ≠ none then .next w
        else if w.bus.sig = s.bus.sig ∧ w.bus.phase = s.bus.phase then .next w
        else settle 63 w)) ∧
  (∀ p : Params, clearsCommandBuffer .testUnitReady p = true ∧ (∀ lba count, clearsCommandBuffer (.read lba count) p = true) ∧
    (∀ control addr, clearsCommandBuffer (.audioStartPos control addr) p = true) ∧
    (∀ control addr, clearsCommandBuffer (.audioEndPos control addr) p = true) ∧ clearsCommandBuffer .pause p = true ∧
    clearsCommandBuffer .readSubcodeQ p = true ∧ ∀ fn, clearsCommandBuffer (.readToc fn) p = true) ∧
  ∀ (s : State) (d : JobDescriptor) (rest : List HostOp) (i : Instr),
    s.inputs = .synth d :: rest → decodeJob d = .ok i → step s = exec i { s with inputs := rest }

/-! ## The commands -/

/-- 41_scsi_commands.md R171: TEST_UNIT_READY enters Status with GOOD and changes nothing else. -/
def Obligations.TestUnitReadyEntersStatus : Prop :=
  ∀ s : State, exec .testUnitReady s = .next { s with bus := inStatus s.bus }

/-- 41_scsi_commands.md R172, 30_encoding.md R93: READ writes its six fields and calls `Audio.Stop()`; no signal, no phase, no queue, nothing
else but the audio player; its LBA and count are those of the CDB bytes. That READ_DELAY_CYCLES is any number is log 7. -/
def Obligations.ReadStartsMultiSectorRead : Prop :=
  (∀ o : Opcodes, o.distinct → ∀ b1 b2 b3 b4 b5 : Byte, ∃ (lba : BitVec 21) (count : Byte),
    decodeCdb o [o.read, b1, b2, b3, b4, b5] = .ok (.read lba count) ∧
    lba.toNat = (b1.toNat % 32) * 65536 + b2.toNat * 256 + b3.toNat ∧ count = b4) ∧
  ∀ (lba : BitVec 21) (count : Byte) (s : State), ∃ audio : Audio,
    exec (.read lba count) s = .next { s with
      bus := { s.bus with
        currentReadingSector := lba.toNat
        sectorsLeftToRead := if count = 0 then 256 else count.toNat
        dataReadInProgress := true
        dataTransferInProgress := true
        dataTransferWasDone := false
        dataReadWaitTimer := s.now + s.params.readDelayCycles }
      calls := s.calls ++ [.audioStop]
      audio := audio }

/-- 41_scsi_commands.md R173: AUDIO_START_POS sets `audioStartLBA`, plays from it, pauses if its byte 1 is 0, and enters
Status with GOOD; nothing else changes but the audio player. Where its address has a malformed BCD byte, the fault is
recorded and nothing else is written. -/
def Obligations.AudioStartPosCompletes : Prop :=
  ∀ (control : Byte) (addr : AudioAddr) (s : State),
    (∀ e, s.fault = none → audioAddress s.disc.toc s.bus.audioStartLBA addr = .error e →
      exec (.audioStartPos control addr) s = .next { s with fault := some e }) ∧
    ∀ start, audioAddress s.disc.toc s.bus.audioStartLBA addr = .ok start → ∃ audio : Audio, exec (.audioStartPos control addr) s = .next { s with
      bus := inStatus { s.bus with audioStartLBA := start }
      calls := s.calls ++ audioAddressCalls s.disc.toc addr ++
        (if control = 0 then [.audioPlayFrom start, .audioPause] else [.audioPlayFrom start])
      audio := audio }

/-- 41_scsi_commands.md R174: AUDIO_END_POS sets `audioEndLBA`, makes the audio calls that its byte 1 selects, and enters
Status with GOOD; nothing else changes but the audio player. Where its address has a malformed BCD byte, the fault is
recorded and nothing else is written. -/
def Obligations.AudioEndPosCompletes : Prop :=
  ∀ (control : Byte) (addr : AudioAddr) (s : State),
    (∀ e, s.fault = none → audioAddress s.disc.toc s.bus.audioEndLBA addr = .error e →
      exec (.audioEndPos control addr) s = .next { s with fault := some e }) ∧
    ∀ stop, audioAddress s.disc.toc s.bus.audioEndLBA addr = .ok stop → ∃ audio : Audio, exec (.audioEndPos control addr) s = .next { s with
      bus := inStatus { s.bus with audioEndLBA := stop }
      calls := s.calls ++ audioAddressCalls s.disc.toc addr ++
        (if control = 0 then [.audioStop]
         else if control = 1 then
           [.audioPlayFrom s.bus.audioStartLBA, .audioSetEndLBA stop, .audioSetPlayMode .loopOnCompletion]
         else if control = 2 then
           [.audioPlayFrom s.bus.audioStartLBA, .audioSetEndLBA stop, .audioSetPlayMode .callbackOnCompletion]
         else if control = 3 then
           [.audioPlayFrom s.bus.audioStartLBA, .audioSetEndLBA stop, .audioSetPlayMode .stopOnCompletion]
         else [])
      audio := audio }

/-- 41_scsi_commands.md R175: PAUSE calls `Audio.Pause()` and enters Status with GOOD; nothing else changes but the audio
player. -/
def Obligations.PauseCompletes : Prop :=
  ∀ s : State, ∃ audio : Audio,
    exec .pause s = .next { s with bus := inStatus s.bus, calls := s.calls ++ [.audioPause], audio := audio }

/-- 41_scsi_commands.md R176: READ_SUBCODE_Q asks for the Q record of the player's sector, or of the read cursor when audio
is stopped, queues the play-state code and the record, and enters DataIn; nothing else changes. -/
def Obligations.ReadSubcodeQAnswers : Prop :=
  ∀ s : State,
    let stopped := s.audio.mode = .stopped
    let lba := if stopped then s.bus.currentReadingSector else s.audio.currentSector
    let q := s.disc.subchannelQ lba
    let code : Byte := match s.audio.mode with
      | .playing => 0x00
      | .paused => 0x02
      | .stopped => 0x03
    exec .readSubcodeQ s = .next { s with
      bus := inDataIn s.bus [code, q.status, q.tno, q.index, q.rm, q.rs, q.rf, q.am, q.as, q.af]
      calls := s.calls ++ (if stopped then [.audioMode, .subcodeRead lba]
        else [.audioMode, .audioCurrentSector, .subcodeRead lba]) }

/-- 41_scsi_commands.md R177: READ_TOC answers the track count, the time of the lead-out or the time and type of a track,
or enters Status with GOOD for another sub-function; where a value has no BCD form or no time, the fault is recorded and
nothing but the calls made so far is written. What F3 leaves of the queue is open between the spec's files: this statement
says nothing of it, see `ReadTocBcdRangeClearsQueue`. -/
def Obligations.ReadTocAnswersOrFaults : Prop :=
  ∀ s : State, s.fault = none →
    let toc := s.disc.toc
    let n := toc.tracks.length
    let leadout := toc.leadoutLBA
    (n ≤ 99 → exec (.readToc .trackCount) s = .next { s with
      bus := inDataIn s.bus [0x01, bcdOf n], calls := s.calls ++ [.tocTrackCount] }) ∧
    (99 < n → ∃ queue, exec (.readToc .trackCount) s = .next { s with
      fault := some (.bcdRange n), calls := s.calls ++ [.tocTrackCount], bus := { s.bus with dataIn := queue } }) ∧
    (hasTime leadout → exec (.readToc .discLength) s = .next { s with
      bus := inDataIn s.bus (timeBytes leadout), calls := s.calls ++ [.tocLeadoutLBA] }) ∧
    (¬ hasTime leadout → exec (.readToc .discLength) s = .next { s with
      fault := some (.msfRange leadout), calls := s.calls ++ [.tocLeadoutLBA] }) ∧
    (∀ t : Byte, ¬ validBcd t → exec (.readToc (.trackStart t)) s = .next { s with fault := some (.badBcd t) }) ∧
    (∀ t : Byte, validBcd t →
      let track := 10 * (t.toNat / 16) + t.toNat % 16
      let number := atLeastOne track
      (beyond toc track → hasTime leadout → exec (.readToc (.trackStart t)) s = .next { s with
        bus := inDataIn s.bus (timeBytes leadout ++ [0x00]), calls := s.calls ++ [.tocTrackCount, .tocLeadoutLBA] }) ∧
      (beyond toc track → ¬ hasTime leadout → exec (.readToc (.trackStart t)) s = .next { s with
        fault := some (.msfRange leadout), calls := s.calls ++ [.tocTrackCount, .tocLeadoutLBA] }) ∧
      (∀ tr, isTrack toc track tr → hasTime tr.start → exec (.readToc (.trackStart t)) s = .next { s with
        bus := inDataIn s.bus (timeBytes tr.start ++ [if tr.isAudio then 0x00 else 0x04])
        calls := s.calls ++ [.tocTrackCount, .tocTrackStart number, .tocIsAudio number] }) ∧
      (∀ tr, isTrack toc track tr → ¬ hasTime tr.start → exec (.readToc (.trackStart t)) s = .next { s with
        fault := some (.msfRange tr.start)
        calls := s.calls ++ [.tocTrackCount, .tocTrackStart number, .tocIsAudio number] })) ∧
    ∀ fn : Byte, exec (.readToc (.other fn)) s = .next { s with bus := inStatus s.bus }

/-- 41_scsi_commands.md R178: an unrecognized opcode enters Status with GOOD and changes nothing else;
UNRECOGNIZED_CLEARS_CDB, true by default, says whether the command buffer is cleared after it. -/
def Obligations.UnrecognizedOpcodeCompletes : Prop :=
  (∀ (op : Byte) (s : State), exec (.unrecognized op) s = .next { s with bus := inStatus s.bus } ∧
    ∀ p : Params, clearsCommandBuffer (.unrecognized op) p = p.unrecognizedClearsCdb) ∧
  State.reset.params.unrecognizedClearsCdb = true

/-- 41_scsi_commands.md R179, R180: the position that an address stands for, and the TOC queries made for it; the first
malformed BCD byte, in the order M, S, F, ends the decoding. -/
def Obligations.AudioAddressIsThePosition : Prop :=
  ∀ (toc : Toc) (old : Int),
    (∀ a : BitVec 24, audioAddress toc old (.lba a) = .ok a.toNat ∧ audioAddressCalls toc (.lba a) = []) ∧
    (∀ m s f : Byte, audioAddressCalls toc (.msf m s f) = [] ∧
      (validBcd m → validBcd s → validBcd f → audioAddress toc old (.msf m s f) =
        .ok ((((10 * (m.toNat / 16) + m.toNat % 16) * 60 + (10 * (s.toNat / 16) + s.toNat % 16)) * 75 +
          (10 * (f.toNat / 16) + f.toNat % 16) : Nat) - 150)) ∧
      (¬ validBcd m → audioAddress toc old (.msf m s f) = .error (.badBcd m)) ∧
      (validBcd m → ¬ validBcd s → audioAddress toc old (.msf m s f) = .error (.badBcd s)) ∧
      (validBcd m → validBcd s → ¬ validBcd f → audioAddress toc old (.msf m s f) = .error (.badBcd f))) ∧
    (∀ t : Byte, (¬ validBcd t → audioAddress toc old (.track t) = .error (.badBcd t)) ∧
      (validBcd t →
        let track := 10 * (t.toNat / 16) + t.toNat % 16
        (beyond toc track → audioAddress toc old (.track t) = .ok toc.leadoutLBA ∧
          audioAddressCalls toc (.track t) = [.tocTrackCount, .tocLeadoutLBA]) ∧
        (∀ tr, isTrack toc track tr → audioAddress toc old (.track t) = .ok tr.start ∧
          audioAddressCalls toc (.track t) = [.tocTrackCount, .tocTrackStart (atLeastOne track)]))) ∧
    audioAddress toc old .reserved = .ok old ∧ audioAddressCalls toc .reserved = []

/-- What the audio player then is. MODEL'S CHOICE (log 11): the player is the minimal collaborator that 60_exceptions.md
R323 admits. -/
def Obligations.AudioPlayerFollowsCommands : Prop :=
  ∀ s : State,
    (∀ lba count t, exec (.read lba count) s = .next t → t.audio = { s.audio with mode := .stopped }) ∧
    (∀ t, exec .pause s = .next t →
      t.audio = { s.audio with mode := if s.audio.mode = .playing then .paused else s.audio.mode }) ∧
    (∀ control addr start t, audioAddress s.disc.toc s.bus.audioStartLBA addr = .ok start →
      exec (.audioStartPos control addr) s = .next t →
      t.audio = { s.audio with mode := if control = 0 then .paused else .playing, currentSector := start }) ∧
    (∀ control addr stop t, audioAddress s.disc.toc s.bus.audioEndLBA addr = .ok stop →
      exec (.audioEndPos control addr) s = .next t →
      (control = 0 → t.audio = { s.audio with mode := .stopped }) ∧
      (∀ mode, (control = 1 ∧ mode = .loopOnCompletion) ∨ (control = 2 ∧ mode = .callbackOnCompletion) ∨
          (control = 3 ∧ mode = .stopOnCompletion) →
        t.audio = ⟨.playing, s.bus.audioStartLBA, stop, mode⟩) ∧
      (4 ≤ control.toNat → t.audio = s.audio)) ∧
    (∀ i t, (i = .testUnitReady ∨ i = .readSubcodeQ ∨ (∃ r, i = .readToc r) ∨ ∃ op, i = .unrecognized op) →
      exec i s = .next t → t.audio = s.audio) ∧
    ∀ t, perform .reset s = .next t → s.fault = none → t.audio = { s.audio with mode := .stopped }

/-! ## Phases and handlers -/

/-- 40_bus_fsm.md R133 and 30_encoding.md R105: entering a phase writes BSY, MSG, CD, IO and REQ from the table and nothing
else, the phase already active is a no-op, and the first four columns tell the seven phases apart. -/
def Obligations.SetPhaseWritesEntryLines : Prop :=
  (∀ b : Bus,
    b.setPhase .busFree = inPhase b .busFree false false false false false ∧
    b.setPhase .command = inPhase b .command true false true false true ∧
    b.setPhase .dataIn = inPhase b .dataIn true false false true false ∧
    b.setPhase .dataOut = inPhase b .dataOut true false false false true ∧
    b.setPhase .messageIn = inPhase b .messageIn true true true true true ∧
    b.setPhase .messageOut = inPhase b .messageOut true true true false true ∧
    b.setPhase .status = inPhase b .status true false true true true) ∧
  ∀ (b c : Bus) (p q : BusPhase), p ≠ b.phase → q ≠ c.phase →
    (b.setPhase p).sig.bsy = (c.setPhase q).sig.bsy → (b.setPhase p).sig.msg = (c.setPhase q).sig.msg →
    (b.setPhase p).sig.cd = (c.setPhase q).sig.cd → (b.setPhase p).sig.io = (c.setPhase q).sig.io → p = q

/-- 40_bus_fsm.md R134: EnterStatus latches the message, clears both completion flags, presents the status byte and enters
Status; every use is with GOOD and COMMAND COMPLETE, and both bytes are 0x00 (UNVERIFIED, log 5). -/
def Obligations.EnterStatusPresentsStatus : Prop :=
  (∀ (b : Bus) (status message : Byte), b.enterStatus status message =
    inPhase { b with messageValue := message, statusCompleted := false, messageCompleted := false, dataBits := status }
      .status true false true true true) ∧
  (∀ b : Bus, b.enterGoodStatus = b.enterStatus 0x00 0x00) ∧ ∀ b : Bus, inStatus b = b.enterStatus 0x00 0x00

/-- 40_bus_fsm.md R136: the Command handler latches a byte and clears REQ when REQ and ACK are high (F9 if ten bytes are
held); when both are low it decodes what it holds, and clears the buffer or asks for more; otherwise it does nothing. For
every value of the model's parameter `queuedBytesFirst` (log 32); where that is true, the one exception is a READ that waits
behind queued bytes, see `SectorLoadPreemptsAnyPhase`. -/
def Obligations.CommandHandlerLatchesAndDecodes : Prop :=
  ∀ s : State,
    (bothHigh s.bus → s.bus.commandBuffer.length < 10 → commandHandler s = .next { s with
      bus := { s.bus with commandBuffer := s.bus.commandBuffer ++ [s.bus.dataBits],
                          sig := { s.bus.sig with req := false } } }) ∧
    (bothHigh s.bus → s.bus.commandBuffer.length = 10 → s.fault = none →
      commandHandler s = .next { s with fault := some (.cdbOverflow s.bus.commandBuffer) }) ∧
    (bothLow s.bus → ∀ e, s.bus.commandBuffer ≠ [] → decodeCdb s.params.opcodes s.bus.commandBuffer = .error e →
      commandHandler s = .next { s with bus := { s.bus with sig := { s.bus.sig with req := true } } }) ∧
    (bothLow s.bus → ∀ i, decodeCdb s.params.opcodes s.bus.commandBuffer = .ok i →
      ∃ t, exec i s = .next t ∧
        (t.fault ≠ none → commandHandler s = .next t) ∧
        (t.fault = none → clearsCommandBuffer i s.params = true →
          commandHandler s = .next { t with bus := { t.bus with commandBuffer := [] } }) ∧
        (t.fault = none → clearsCommandBuffer i s.params = false →
          commandHandler s = .next { t with bus := { t.bus with sig := { t.bus.sig with req := true } } })) ∧
    (s.bus.sig.req ≠ s.bus.sig.ack → commandHandler s = .next s) ∧
    (bothLow s.bus → s.bus.commandBuffer = [] → (s.params.queuedBytesFirst = true → ¬ behindQueue s.bus s.now) →
      commandHandler s = .next s)

/-- 40_bus_fsm.md R137: the DataIn handler clears REQ on an acknowledged byte, presents the next byte, or drains: both
interrupt lines, the transfer flags and the Status phase follow; otherwise it does nothing. -/
def Obligations.DataInHandlerStreamsAndDrains : Prop :=
  ∀ b : Bus,
    (bothHigh b → b.dataInHandler = { b with sig := { b.sig with req := false } }) ∧
    (bothLow b → ∀ byte rest, b.dataIn = byte :: rest →
      b.dataInHandler = { b with dataBits := byte, dataIn := rest, sig := { b.sig with req := true } }) ∧
    (bothLow b → b.dataIn = [] → b.dataTransferWasDone = true → b.dataInHandler =
      inStatus { b with intDataTransferReady := false, dataTransferInProgress := false, dataTransferWasDone := false,
                        intDataTransferComplete := true }) ∧
    (bothLow b → b.dataIn = [] → b.dataTransferWasDone = false →
      b.dataInHandler = inStatus { b with intDataTransferReady := false }) ∧
    (b.sig.req ≠ b.sig.ack → b.dataInHandler = b)

/-- 40_bus_fsm.md R138, R139: the Status handler and the MessageIn handler record the host's acknowledgement, and hand off
to MessageIn with the message byte, and to BusFree, once REQ and ACK are low. -/
def Obligations.StatusAndMessageHandOff : Prop :=
  ∀ b : Bus,
    (bothHigh b → b.statusHandler = { b with sig := { b.sig with req := false }, statusCompleted := true } ∧
      b.messageInHandler = { b with sig := { b.sig with req := false }, messageCompleted := true }) ∧
    (bothLow b → b.statusCompleted = true → b.statusHandler =
      inPhase { b with statusCompleted := false, dataBits := b.messageValue } .messageIn true true true true true) ∧
    (bothLow b → b.messageCompleted = true → b.messageInHandler =
      inPhase { b with messageCompleted := false } .busFree false false false false false) ∧
    (bothLow b → b.statusCompleted = false → b.statusHandler = b) ∧
    (bothLow b → b.messageCompleted = false → b.messageInHandler = b) ∧
    (b.sig.req ≠ b.sig.ack → b.statusHandler = b ∧ b.messageInHandler = b)

/-- 40_bus_fsm.md R132, R135, R140, R142: in one pass selection comes before attention, attention before the handler of the
phase; BusFree has no action, and the DataOut and MessageOut handlers only enter BusFree. -/
def Obligations.PassPrecedence : Prop :=
  ∀ s : State,
    (selecting s.bus → busPass s = .next { s with bus := inPhase s.bus .command true false true false true }) ∧
    (¬ selecting s.bus → s.bus.sig.atn = true → bothLow s.bus →
      busPass s = .next { s with bus := inPhase s.bus .messageOut true true true false true }) ∧
    (¬ selecting s.bus → ¬ (s.bus.sig.atn = true ∧ bothLow s.bus) →
      (s.bus.phase = .busFree → busPass s = .next s) ∧
      (s.bus.phase = .command → busPass s = commandHandler s) ∧
      (s.bus.phase = .dataIn → busPass s = .next { s with bus := s.bus.dataInHandler }) ∧
      (s.bus.phase = .dataOut → busPass s = .next { s with
        bus := inPhase s.bus .busFree false false false false false }) ∧
      (s.bus.phase = .messageIn → busPass s = .next { s with bus := s.bus.messageInHandler }) ∧
      (s.bus.phase = .messageOut → busPass s = .next { s with
        bus := inPhase s.bus .busFree false false false false false }) ∧
      (s.bus.phase = .status → busPass s = .next { s with bus := s.bus.statusHandler }))

/-- 40_bus_fsm.md R131: the settle loop repeats passes until one changes no line and no phase, ends at once at a fault, and
records F1 with the phase and the lines after the 64th changing pass. -/
def Obligations.SettleLoopIsBounded : Prop :=
  (∀ (p : Nat → State) (k : Nat), k < 64 → (∀ j, j ≤ k → busPass (p j) = .next (p (j + 1))) →
    (∀ j, j < k → changed (p j) (p (j + 1)) ∧ (p (j + 1)).fault = none) →
    ¬ changed (p k) (p (k + 1)) ∨ (p (k + 1)).fault ≠ none → settle 64 (p 0) = .next (p (k + 1))) ∧
  ∀ p : Nat → State, (∀ j, j < 64 → busPass (p j) = .next (p (j + 1))) →
    (∀ j, j < 64 → changed (p j) (p (j + 1)) ∧ (p (j + 1)).fault = none) →
    settle 64 (p 0) = .next { p 64 with fault := some (.noSettle (p 64).bus.phase (p 64).bus.sig) }

/-- 40_bus_fsm.md R130, 60_exceptions.md R313: an Advance tests a fault, then RST, then makes the sector load, then settles
in at most 64 passes; a fault of the sector load ends it. -/
def Obligations.AdvanceOrder : Prop :=
  ∀ (s : State) (now : Nat) (rest : List HostOp), s.inputs = .advance now :: rest →
    let u := advanced s now rest s.bus
    (s.fault ≠ none → step s = .next { s with inputs := rest }) ∧
    (s.fault = none → s.bus.sig.rst = true → step s = .next u.deviceReset) ∧
    (s.fault = none → s.bus.sig.rst = false → u.sectorLoad.fault ≠ none → step s = .next u.sectorLoad) ∧
    (s.fault = none → s.bus.sig.rst = false → u.sectorLoad.fault = none → step s = settle 64 u.sectorLoad)

/-- 40_bus_fsm.md R141: a sector load happens when the deadline is strictly past and the queue is empty; it calls the block
source, faults with F4 on an answer of another length, and else queues the sector, advances the cursor, counts down, raises
the ready line, marks the end of the read at 0, and enters DataIn. The counter is positive here; where it is 0, see
`CounterAtZeroStaysInRange`. -/
def Obligations.SectorLoadQueuesOneSector : Prop :=
  ∀ s : State,
    let lba := s.bus.currentReadingSector
    let bytes := s.disc.readBlock lba 2048
    (¬ due s.bus s.now → s.sectorLoad = s) ∧
    (due s.bus s.now → s.fault = none → bytes.length ≠ 2048 → s.sectorLoad = { s with
      calls := s.calls ++ [.blockRead lba 2048], fault := some (.sectorSize lba) }) ∧
    ∀ left, s.bus.sectorsLeftToRead = left + 1 → due s.bus s.now → bytes.length = 2048 →
      s.sectorLoad = { s with
        calls := s.calls ++ [.blockRead lba 2048]
        bus := inDataIn { s.bus with
          currentReadingSector := lba + 1
          sectorsLeftToRead := left
          intDataTransferReady := true
          dataReadInProgress := if left = 0 then false else s.bus.dataReadInProgress
          dataTransferWasDone := if left = 0 then true else s.bus.dataTransferWasDone } bytes }

/-- MODEL'S CHOICE (log 16): a sector load that finds the counter at 0, which only a restored image reaches, leaves a free
value in 0..256 there (10_state.md R27); the other fields follow 40_bus_fsm.md R141, the end of the read by the free value. -/
def Obligations.CounterAtZeroStaysInRange : Prop :=
  ∀ s : State, s.bus.sectorsLeftToRead = 0 → due s.bus s.now →
    let lba := s.bus.currentReadingSector
    let bytes := s.disc.readBlock lba 2048
    bytes.length = 2048 → ∃ left, left ≤ 256 ∧ s.sectorLoad = { s with
      calls := s.calls ++ [.blockRead lba 2048]
      freeCount := s.freeCount + 1
      bus := inDataIn { s.bus with
        currentReadingSector := lba + 1
        sectorsLeftToRead := left
        intDataTransferReady := true
        dataReadInProgress := if left = 0 then false else s.bus.dataReadInProgress
        dataTransferWasDone := if left = 0 then true else s.bus.dataTransferWasDone } bytes }

/-- 70_reset_and_hazards.md R340, 10_state.md R44: what a device reset writes, what it keeps, and that a recorded fault
stops it. -/
def Obligations.DeviceResetTable : Prop :=
  ∀ s : State,
    (s.fault ≠ none → s.deviceReset = s) ∧
    (s.fault = none → ∃ audio : Audio, s.deviceReset = { s with
      bus := { s.bus with
        sig := { s.bus.sig with cd := false, io := false, msg := false, req := false, ack := false,
                                bsy := if s.params.resetClearsBsy then false else s.bus.sig.bsy }
        dataBits := 0x00
        phase := .busFree
        commandBuffer := []
        dataIn := []
        dataReadInProgress := false
        dataTransferInProgress := false
        dataTransferWasDone := false
        statusCompleted := false
        messageCompleted := false
        intDataTransferReady := false }
      calls := s.calls ++ [.audioStop]
      audio := audio })

/-- 70_reset_and_hazards.md R341: an Advance with RST asserted returns the device to BusFree with both queues empty and one
`Audio.Stop()`, whatever its phase and whatever was due. -/
def Obligations.RstAdvanceResets : Prop :=
  ∀ (s : State) (now : Nat) (rest : List HostOp), s.inputs = .advance now :: rest → s.fault = none →
    s.bus.sig.rst = true → ∃ t, step s = .next t ∧ t.bus.phase = .busFree ∧ t.bus.commandBuffer = [] ∧
      t.bus.dataIn = [] ∧ t.bus.dataReadInProgress = false ∧ t.calls = s.calls ++ [.audioStop] ∧
      t.bus.currentReadingSector = s.bus.currentReadingSector ∧ t.dest = s.dest ∧ t.fault = none

/-! ## Runs of the bus -/

/-- 70_reset_and_hazards.md R346: ATN held with REQ and ACK low and no selection alternates MessageOut and BusFree, and the
64th pass records F1 with BusFree and its lines. The phase is not MessageOut already: there SetPhase is a no-op
(40_bus_fsm.md R133). -/
def Obligations.AtnLivelockFaults : Prop :=
  ∀ (s : State) (now : Nat) (rest : List HostOp), advances s now rest → s.bus.sig.sel = false →
    s.bus.sig.atn = true → bothLow s.bus → s.bus.phase ≠ .messageOut →
    let g := lines s.bus.sig false false false false false
    step s = .next { s with
      inputs := rest
      now := now
      bus := { s.bus with phase := .busFree, sig := g }
      fault := some (.noSettle .busFree g) }

/-- 40_bus_fsm.md R130 (Example), R132: selection enters Command with its lines and REQ up, from any other phase; in Command
already, nothing changes. With ACK held the same Advance latches the data byte (R136), or records F9 where ten are held.
70_reset_and_hazards.md R346: ATN with SEL and BSY high ends in Command too, by way of MessageOut and BusFree. -/
def Obligations.SelectionEntersCommand : Prop :=
  ∀ (s : State) (now : Nat) (rest : List HostOp), advances s now rest →
    let entered : Bus := { s.bus with phase := .command, sig := lines s.bus.sig true false true false true }
    (selecting s.bus →
      (s.bus.phase ≠ .command → s.bus.sig.ack = false → step s = .next (advanced s now rest entered)) ∧
      (s.bus.phase = .command → step s = .next (advanced s now rest s.bus)) ∧
      (s.bus.phase ≠ .command → s.bus.sig.ack = true → s.bus.commandBuffer.length < 10 →
        step s = .next (advanced s now rest { entered with
          commandBuffer := s.bus.commandBuffer ++ [s.bus.dataBits], sig := { entered.sig with req := false } })) ∧
      (s.bus.phase ≠ .command → s.bus.sig.ack = true → s.bus.commandBuffer.length = 10 →
        step s = .next { advanced s now rest entered with fault := some (.cdbOverflow s.bus.commandBuffer) })) ∧
    (s.bus.sig.sel = true → s.bus.sig.bsy = true → s.bus.sig.atn = true → bothLow s.bus → s.bus.phase ≠ .messageOut →
      step s = .next (advanced s now rest entered))

/-- 40_bus_fsm.md R148: the halves of one byte's handshake in each phase, each in one Advance: the acknowledged byte is
latched or retired and REQ falls; with ACK released the device presents the next byte, asks for more, or hands off. -/
def Obligations.ByteHandshakes : Prop :=
  ∀ (s : State) (now : Nat) (rest : List HostOp), advances s now rest → ¬ selecting s.bus →
    let b := s.bus
    let low : Signals := { b.sig with req := false }
    let high : Signals := { b.sig with req := true }
    (bothHigh b →
      (b.phase = .command → b.commandBuffer.length < 10 → step s = .next (advanced s now rest
        { b with commandBuffer := b.commandBuffer ++ [b.dataBits], sig := low })) ∧
      (b.phase = .dataIn → step s = .next (advanced s now rest { b with sig := low })) ∧
      (b.phase = .status → step s = .next (advanced s now rest { b with sig := low, statusCompleted := true })) ∧
      (b.phase = .messageIn → step s = .next (advanced s now rest { b with sig := low, messageCompleted := true }))) ∧
    (bothLow b → b.sig.atn = false →
      (b.phase = .command → ∀ op tail, b.commandBuffer = op :: tail → tail.length + 1 < cdbLength s.params.opcodes op →
        step s = .next (advanced s now rest { b with sig := high })) ∧
      (b.phase = .dataIn → ∀ byte queue, b.dataIn = byte :: queue → step s = .next (advanced s now rest
        { b with dataBits := byte, dataIn := queue, sig := high })) ∧
      (b.phase = .dataIn → b.dataIn = [] → b.dataTransferWasDone = true → step s = .next (advanced s now rest
        (inStatus { b with intDataTransferReady := false, dataTransferInProgress := false,
                           dataTransferWasDone := false, intDataTransferComplete := true }))) ∧
      (b.phase = .dataIn → b.dataIn = [] → b.dataTransferWasDone = false → step s = .next (advanced s now rest
        (inStatus { b with intDataTransferReady := false }))) ∧
      (b.phase = .status → b.statusCompleted = true → step s = .next (advanced s now rest
        { b with statusCompleted := false, dataBits := b.messageValue, phase := .messageIn,
                 sig := lines b.sig true true true true true })) ∧
      (b.phase = .messageIn → b.messageCompleted = true → b.sig.sel = false → step s = .next (advanced s now rest
        { b with messageCompleted := false, phase := .busFree,
                 sig := lines b.sig false false false false false })))

/-- 70_reset_and_hazards.md R345: a reset with RESET_CLEARS_BSY false leaves BSY as it was in BusFree, and with BSY high
there an Advance does not select, whatever SEL is. -/
def Obligations.BsyAfterResetBlocksSelection : Prop :=
  (∀ (s : State) (rest : List HostOp), s.inputs = .reset :: rest → s.fault = none →
    ∃ t, step s = .next t ∧ t.bus.phase = .busFree ∧ t.bus.dataReadInProgress = false ∧ t.bus.sig.sel = s.bus.sig.sel ∧
      t.bus.sig.bsy = if s.params.resetClearsBsy then false else s.bus.sig.bsy) ∧
  ∀ (s : State) (now : Nat) (rest : List HostOp), advances s now rest → s.bus.phase = .busFree →
    s.bus.sig.bsy = true → s.bus.sig.atn = false → step s = .next (advanced s now rest s.bus)

/-- 40_bus_fsm.md R149: the edges of the phase graph that one pass can take; none enters DataOut. -/
def Obligations.PhaseGraphOfPass : Prop :=
  ∀ s t : State, busPass s = .next t →
    t.bus.phase = s.bus.phase ∨
    (selecting s.bus ∧ t.bus.phase = .command) ∨
    (¬ selecting s.bus ∧ s.bus.sig.atn = true ∧ bothLow s.bus ∧ t.bus.phase = .messageOut) ∨
    (s.bus.phase = .command ∧ bothLow s.bus ∧ (t.bus.phase = .status ∨ t.bus.phase = .dataIn)) ∨
    (s.bus.phase = .dataIn ∧ bothLow s.bus ∧ s.bus.dataIn = [] ∧ t.bus.phase = .status) ∨
    (s.bus.phase = .status ∧ bothLow s.bus ∧ s.bus.statusCompleted = true ∧ t.bus.phase = .messageIn) ∨
    (s.bus.phase = .messageIn ∧ bothLow s.bus ∧ s.bus.messageCompleted = true ∧ t.bus.phase = .busFree) ∨
    ((s.bus.phase = .dataOut ∨ s.bus.phase = .messageOut) ∧ t.bus.phase = .busFree)

/-- 60_exceptions.md R300, R302, R303: the first fault is recorded and stays; with a fault Advance, Synth, Reset and Load
do nothing, while line writes, AckInterrupt and reads still act. -/
def Obligations.FaultIsTerminal : Prop :=
  (∀ (s : State) (e : FaultRecord), s.fault = none → s.raise e = { s with fault := some e }) ∧
  ∀ (s : State) (f : FaultRecord), s.fault = some f →
    (∀ e, s.raise e = s) ∧ (∀ t, step s = .next t → t.fault = some f) ∧
    ∀ (op : HostOp) (rest : List HostOp), s.inputs = op :: rest →
      ((∃ now, op = .advance now) ∨ (∃ d, op = .synth d) ∨ op = .reset ∨ (∃ image, op = .load image) →
        step s = .next { s with inputs := rest }) ∧
      (∀ l v, op = .writeSignal l v → step s = .next { s with
        inputs := rest, bus := { s.bus with sig := s.bus.sig.set l v } }) ∧
      (op = .ackInterrupt → step s = .next { s with
        inputs := rest, bus := { s.bus with intDataTransferComplete := false } }) ∧
      (∀ v, op = .writeData v → step s = .next { s with inputs := rest, bus := { s.bus with dataBits := v } }) ∧
      (op = .readFault → step s = .next { s with inputs := rest, replies := s.replies ++ [.fault (some f)] }) ∧
      (op = .readData → step s = .next { s with inputs := rest, replies := s.replies ++ [.data s.bus.dataBits] }) ∧
      (op = .readSignals → step s = .next { s with
        inputs := rest
        replies := s.replies ++ [.signals s.bus.sig s.bus.intDataTransferReady s.bus.intDataTransferComplete] })

/-- 40_bus_fsm.md R143, R144, R146: a line write changes the named line only, a data write `DataBits` only, an
acknowledgement the completion line only, and a read nothing of the device; 60_exceptions.md R300: ReadFault answers the
Fault record, none or not. -/
def Obligations.HostWritesAndReads : Prop :=
  (∀ (g : Signals) (l m : Line) (v : Bool), (g.set l v).get m = if m = l then v else g.get m) ∧
  ∀ (s : State) (rest : List HostOp),
    (∀ l v, s.inputs = .writeSignal l v :: rest →
      step s = .next { s with inputs := rest, bus := { s.bus with sig := s.bus.sig.set l v } }) ∧
    (∀ v, s.inputs = .writeData v :: rest →
      step s = .next { s with inputs := rest, bus := { s.bus with dataBits := v } }) ∧
    (s.inputs = .ackInterrupt :: rest →
      step s = .next { s with inputs := rest, bus := { s.bus with intDataTransferComplete := false } }) ∧
    (s.inputs = .readSignals :: rest → step s = .next { s with
      inputs := rest
      replies := s.replies ++ [.signals s.bus.sig s.bus.intDataTransferReady s.bus.intDataTransferComplete] }) ∧
    (s.inputs = .readData :: rest →
      step s = .next { s with inputs := rest, replies := s.replies ++ [.data s.bus.dataBits] }) ∧
    (s.inputs = .readFault :: rest →
      step s = .next { s with inputs := rest, replies := s.replies ++ [.fault s.fault] })

/-- 40_bus_fsm.md R147, 20_memory.md R80 to R82: a saved image, loaded into any unfaulted machine, restores every persisted
field and nothing else. -/
def Obligations.LoadOfSaveRestores : Prop :=
  ∀ (s : State) (rest : List HostOp), s.inputs = .save :: rest → ∃ image : Bus,
    step s = .next { s with inputs := rest, replies := s.replies ++ [.image image] } ∧
    ∀ (u : State) (more : List HostOp), u.inputs = .load image :: more → u.fault = none →
      step u = .next { u with inputs := more, bus := s.bus }

/-- 20_memory.md R82: what a run does next depends on the persisted state, the fault record, the collaborators and the
host's operations alone: two states that agree on them step to states that agree on them, with the same calls made and the
same answers given, whatever `now` an earlier Advance left. Within the bounds of the device, which every step keeps
(`StepKeepsInvariant`): outside them a sector load may find the counter at 0 and draw a free value (log 16). -/
def Obligations.RunDependsOnPersistedState : Prop :=
  ∀ s t s' : State, sameRun s t → busBounds s.bus → step s = .next s' → ∃ (t' : State) (calls : List Call) (replies : List HostReply),
    step t = .next t' ∧ sameRun s' t' ∧ s'.calls = s.calls ++ calls ∧ t'.calls = t.calls ++ calls ∧
      s'.replies = s.replies ++ replies ∧ t'.replies = t.replies ++ replies

/-- 60_exceptions.md R310, R311: DataTransferReady rises only by a sector load, and falls only in an Advance that drains
DataIn or finds RST, or by Reset(); DataTransferComplete rises only in an Advance that drains a finished transfer, and falls
only by AckInterrupt. Loading an image sets both as it says. -/
def Obligations.InterruptLinesFollowTheirRules : Prop :=
  ∀ (s t : State) (op : HostOp) (rest : List HostOp), s.inputs = op :: rest → step s = .next t →
    (∀ image, op ≠ .load image) →
    (s.bus.intDataTransferReady = false → t.bus.intDataTransferReady = true →
      ∃ now, op = .advance now ∧ due s.bus now ∧ s.fault = none ∧ s.bus.sig.rst = false) ∧
    (s.bus.intDataTransferReady = true → t.bus.intDataTransferReady = false → s.fault = none ∧
      (op = .reset ∨ ∃ now, op = .advance now ∧ (s.bus.sig.rst = true ∨
        (s.bus.phase = .dataIn ∧ bothLow s.bus ∧ s.bus.dataIn = [] ∧ ¬ due s.bus now)))) ∧
    (s.bus.intDataTransferComplete = false → t.bus.intDataTransferComplete = true →
      (∃ now, op = .advance now) ∧ s.bus.dataTransferWasDone = true ∧ t.bus.dataTransferWasDone = false ∧
        t.bus.intDataTransferReady = false) ∧
    (s.bus.intDataTransferComplete = true → t.bus.intDataTransferComplete = false → op = .ackInterrupt)

/-- 10_state.md R24, R25, R27, 42_codecs.md R225, 60_exceptions.md R301 (F8): every step keeps the bounds of the device,
the canonical form and the extent of the destination buffer, and never records F8. -/
def Obligations.StepKeepsInvariant : Prop :=
  ∀ s t : State, invariant s → step s = .next t → invariant t

/-- The invariant holds at `State.reset`, and the device there, the suggested `S0` of 70_reset_and_hazards.md R342, is a
fixed point of an Advance with no host writes. MODEL'S CHOICE (log 3): power-on is `S0`. -/
def Obligations.ResetSatisfiesInvariant : Prop :=
  invariant State.reset ∧ ∀ now : Nat, perform (.advance now) State.reset = .next { State.reset with now := now }

/-- MODEL'S CHOICE (log 14, DEDUCED from 60_exceptions.md R300, R303 and R304): a fault of the spec is a recorded state and
never an outcome that stops the machine, so every step answers a next state. -/
def Obligations.EveryStepAnswersNext : Prop :=
  ∀ s : State, ∃ t, step s = .next t

/-! ## The synthesizer -/

/-- 43_sector_synth.md R250: the checks of a job, in their order, each ending in its fault with nothing else written; a
recorded fault stops the job first. -/
def Obligations.SynthChecksInOrder : Prop :=
  ∀ (s : State) (d : JobDescriptor) (rest : List HostOp), s.inputs = .synth d :: rest →
    (s.fault ≠ none → step s = .next { s with inputs := rest }) ∧
    (s.fault = none → ∀ e, refusal d.variant d.job s.destLen = some e →
      step s = .next { s with inputs := rest, fault := some e })

/-- 43_sector_synth.md R251, R252, R255, R257, R258: a job of each variant whose checks pass completes: it writes the
destination buffer, makes the block call its variant asks for, and changes nothing else. -/
def Obligations.SynthVariantsComplete : Prop :=
  ∀ (job : SynthJob) (s : State),
    (runs 0 job s → ∃ dest calls, exec (.synthMode1_2048 job) s = .next { s with dest := dest, calls := s.calls ++ calls } ∧
      (user job → calls = [.blockRead job.lba 2048]) ∧ (¬ user job → calls = [])) ∧
    (runs 1 job s → ∃ dest, exec (.synthGap_2048 job) s = .next { s with dest := dest }) ∧
    (runs 2 job s → ∃ dest calls, exec (.synthRaw_2352 job) s = .next { s with dest := dest, calls := s.calls ++ calls } ∧
      (anyMain job → calls = [.blockRead job.lba 2352]) ∧ (¬ anyMain job → calls = [])) ∧
    (runs 3 job s → ∃ dest, exec (.synthGap_2352 job) s = .next { s with dest := dest })

/-- 43_sector_synth.md R252, R257 (Faults), R251: a block answer of another length than asked records F4 with the LBA,
before any byte of the destination is written. -/
def Obligations.SynthBlockSizeFaults : Prop :=
  ∀ (variant : Nat) (job : SynthJob) (s : State) (n : Nat), variant < 4 → s.fault = none →
    refusal variant job s.destLen = none → asked variant job n → (s.disc.readBlock job.lba n).length ≠ n →
    exec (synthInstr variant job) s = .next { s with
      fault := some (.sectorSize job.lba), calls := s.calls ++ [.blockRead job.lba n] }

/-- 43_sector_synth.md R264 with R252 to R262: no job writes a byte outside the ranges of its requested parts, in its frame
or out of it. R264's table gives Subchannel_RSTUVW no interleave range; R262 writes 2352..2447 for it too (log 27). -/
def Obligations.SynthWriteRange : Prop :=
  ∀ (variant : Nat) (job : SynthJob) (s t : State) (a : Nat), variant < 4 →
    exec (synthInstr variant job) s = .next t →
    ¬ (∃ k, a = job.off + k ∧ k < 2448 ∧ mayWrite variant job k) → t.dest.readByte a = s.dest.readByte a

/-- 43_sector_synth.md R252, R253, R255: the user data and the 16-byte header of a 2048-byte variant. -/
def Obligations.SynthUserDataAndHeader : Prop :=
  ∀ (variant : Nat) (job : SynthJob) (s : State), variant < 2 → runs variant job s →
    ∃ t, exec (synthInstr variant job) s = .next t ∧
      (user job → frameBytes t job 16 2048 = userBytes variant job s) ∧
      (header job → frameBytes t job 0 16 =
        [0x00, 0xFF, 0xFF, 0xFF, 0xFF, 0xFF, 0xFF, 0xFF, 0xFF, 0xFF, 0xFF, 0x00] ++ timeBytes job.lba ++
          [BitVec.ofNat 8 job.mode])

/-- 43_sector_synth.md R254, 42_codecs.md R216: the EDC over the finished first 2064 bytes, in the byte order of
EDC_LSB_FIRST, and the eight zeroed reserved bytes. -/
def Obligations.SynthEdcAndReserved : Prop :=
  ∀ (variant : Nat) (job : SynthJob) (s : State), variant < 2 → runs variant job s → ecm job →
    ∃ t, exec (synthInstr variant job) s = .next t ∧
      (let e := edc (frameBytes t job 0 2064)
       let lsb := [e.extractLsb' 0 8, e.extractLsb' 8 8, e.extractLsb' 16 8, e.extractLsb' 24 8]
       frameBytes t job 2064 4 = if s.params.edcLsbFirst then lsb else lsb.reverse) ∧
      frameBytes t job 2068 8 = List.replicate 8 0x00

/-- 42_codecs.md R217 to R220, 43_sector_synth.md R254: the ECC bytes make every P column and every Q diagonal of the
finished frame a codeword: both of its syndromes are zero. The code itself is UNVERIFIED (log 21). -/
def Obligations.SynthEccIsACodeword : Prop :=
  ∀ (variant : Nat) (job : SynthJob) (s : State), variant < 2 → runs variant job s → ecm job →
    ∃ t, exec (synthInstr variant job) s = .next t ∧
      (∀ major, major < 86 → codeword (columnP t job major)) ∧ ∀ major, major < 52 → codeword (diagonalQ t job major)

/-- 43_sector_synth.md R255, R258: a gap variant writes what the corresponding variant writes from an all-zero block source,
and calls no collaborator. -/
def Obligations.GapIsZeroBacked : Prop :=
  ∀ (job : SynthJob) (s : State),
    let zero (n : Nat) : State :=
      { s with disc := { s.disc with blocks := ⟨job.lba, n, List.replicate n 0x00⟩ :: s.disc.blocks } }
    (runs 1 job s → ∃ t u, exec (.synthGap_2048 job) s = .next t ∧ exec (.synthMode1_2048 job) (zero 2048) = .next u ∧
      t.dest = u.dest ∧ t.calls = s.calls) ∧
    (runs 3 job s → ∃ t u, exec (.synthGap_2352 job) s = .next t ∧ exec (.synthRaw_2352 job) (zero 2352) = .next u ∧
      t.dest = u.dest ∧ t.calls = s.calls)

/-- 43_sector_synth.md R257, R258: any main-channel part copies the 2352 bytes of the source verbatim, or zeros in a gap;
with none of them the main channel keeps its bytes. -/
def Obligations.RawMainChannelIsVerbatim : Prop :=
  ∀ (job : SynthJob) (s : State),
    (runs 2 job s → ∃ t, exec (.synthRaw_2352 job) s = .next t ∧
      (anyMain job → frameBytes t job 0 2352 = s.disc.readBlock job.lba 2352) ∧
      (¬ anyMain job → frameBytes t job 0 2352 = frameBytes s job 0 2352)) ∧
    (runs 3 job s → ∃ t, exec (.synthGap_2352 job) s = .next t ∧
      (anyMain job → frameBytes t job 0 2352 = List.replicate 2352 0x00) ∧
      (¬ anyMain job → frameBytes t job 0 2352 = frameBytes s job 0 2352))

/-- 43_sector_synth.md R259 to R262, R265: the 96 subcode bytes of every variant: the requested channels over the old bytes,
interleaved unless the deinterleaved form is asked for; nothing without a subchannel part. -/
def Obligations.SubcodeRegionOfEveryVariant : Prop :=
  ∀ (variant : Nat) (job : SynthJob) (s : State), variant < 4 → runs variant job s →
    ∃ t, exec (synthInstr variant job) s = .next t ∧
      (¬ anySub job → frameBytes t job 2352 96 = frameBytes s job 2352 96) ∧
      (anySub job → deint job → frameBytes t job 2352 96 = channels job (frameBytes s job 2352 96)) ∧
      (anySub job → ¬ deint job →
        frameBytes t job 2352 96 = interleave (channels job (frameBytes s job 2352 96)) ∧
        deinterleave (frameBytes t job 2352 96) = channels job (frameBytes s job 2352 96))

/-- 43_sector_synth.md R263: a job run twice in place gives the frame of one run, when it does not interleave or requests
all three channels; and equal frames and equal block answers give equal frames. -/
def Obligations.SynthesisIsDeterministicAndIdempotent : Prop :=
  (∀ (variant : Nat) (job : SynthJob) (s : State), variant < 4 → runs variant job s →
    ¬ anySub job ∨ deint job ∨ (chanP job ∧ chanQ job ∧ chanRW job) →
    ∃ t u, exec (synthInstr variant job) s = .next t ∧ exec (synthInstr variant job) t = .next u ∧
      ∀ a, u.dest.readByte a = t.dest.readByte a) ∧
  ∀ (variant : Nat) (job : SynthJob) (s s' : State), variant < 4 → runs variant job s → runs variant job s' →
    s.params.edcLsbFirst = s'.params.edcLsbFirst → frameBytes s job 0 2448 = frameBytes s' job 0 2448 →
    (∀ n, asked variant job n → s.disc.readBlock job.lba n = s'.disc.readBlock job.lba n) →
    ∃ t t', exec (synthInstr variant job) s = .next t ∧ exec (synthInstr variant job) s' = .next t' ∧
      frameBytes t job 0 2448 = frameBytes t' job 0 2448

/-! ## Codecs -/

/-- 42_codecs.md R223, R224, R228: where each bit of the interleaved form comes from, and that the two maps are inverse on
every 96 bytes. The layout is UNVERIFIED (log 21). -/
def Obligations.InterleaveIsABitPermutation : Prop :=
  (∀ (d : List Byte) (j c : Nat), d.length = 96 → j < 96 → c < 8 →
    ((interleave d).getD j 0).getLsbD (7 - c) = (d.getD (12 * c + j / 8) 0).getLsbD (7 - j % 8)) ∧
  (∀ d : List Byte, d.length = 96 → deinterleave (interleave d) = d) ∧
  ∀ o : List Byte, o.length = 96 → interleave (deinterleave o) = o

/-- 42_codecs.md R210 to R212: a BCD byte decodes to its two digits exactly when both are digits, else F2; a number up to 99
encodes to a byte that decodes to it, a greater one is F3. -/
def Obligations.BcdCodecIsExact : Prop :=
  (∀ b : Byte, (validBcd b → bcdToBin b = .ok (10 * (b.toNat / 16) + b.toNat % 16)) ∧
    (¬ validBcd b → bcdToBin b = .error (.badBcd b))) ∧
  ∀ n : Nat, (n ≤ 99 → binToBcd n = .ok (bcdOf n) ∧ bcdToBin (bcdOf n) = .ok n) ∧
    (99 < n → binToBcd n = .error (.bcdRange n))

/-- 42_codecs.md R213, R214: an LBA in -150..449849 has one time with second below 60 and frame below 75, from which the LBA
comes back; any other LBA is F5. -/
def Obligations.LbaMsfRoundTrip : Prop :=
  ∀ lba : Int,
    (hasTime lba → ∃ t : Msf, lbaToMsf lba = .ok t ∧ t.m ≤ 99 ∧ t.s < 60 ∧ t.f < 75 ∧
      ((t.m * 60 + t.s) * 75 + t.f : Nat) - 150 = lba ∧ msfToLba t = lba ∧
      msfBytes lba = .ok (timeBytes lba)) ∧
    (¬ hasTime lba → lbaToMsf lba = .error (.msfRange lba) ∧ msfBytes lba = .error (.msfRange lba))

/-- 42_codecs.md sections 1 to 4: the check values that the rules give, and both tables of R217 at every byte: the doubling in
GF(2^8) modulo 0x11D, and the division by 1 + α, inverse to it from both sides. R221, R222, 30_encoding.md R113: the twelve Q bytes of every record are
its fields in their order with 0x00 at 6, and the complemented CRC of those ten, high byte first; the CRC is the bit-serial
one, for every byte sequence (UNVERIFIED, log 21). -/
def Obligations.CodecCheckValues : Prop :=
  edcEntry 1 = 0x90910101#32 ∧ edcEntry 128 = 0xD8018001#32 ∧ edc [0x01] = 0x90910101#32 ∧
  gfDouble 0x80 = 0x1D ∧ gfDouble 0x01 = 0x02 ∧ gfUnmix 0x03 = 0x01 ∧
  (∀ i : Byte, (gfDouble i).toNat = if i.toNat < 128 then 2 * i.toNat else (2 * i.toNat) ^^^ 0x11D) ∧
  (∀ i : Byte, gfUnmix (i ^^^ gfDouble i) = i) ∧ (∀ j : Byte, gfUnmix j ^^^ gfDouble (gfUnmix j) = j) ∧
  ~~~ (qCrc [0x31, 0x32, 0x33, 0x34, 0x35, 0x36, 0x37, 0x38, 0x39]) = 0x31C3#16 ∧
  qBytes ⟨0x41, 0x01, 0x01, 0x00, 0x00, 0x00, 0x00, 0x02, 0x00⟩ =
    [0x41, 0x01, 0x01, 0x00, 0x00, 0x00, 0x00, 0x00, 0x02, 0x00, 0x28, 0x32] ∧
  lbaToMsf 276120 = .ok ⟨61, 23, 45⟩ ∧ lbaToMsf (-1) = .ok ⟨0, 1, 74⟩ ∧ msfToLba ⟨2, 0, 0⟩ = 8850 ∧
  msfToLba ⟨99, 99, 99⟩ = 452874 ∧
  (∀ bytes : List Byte, qCrc bytes = ~~~ (bytes.foldl crcByteSerial 0)) ∧
  ∀ q : SubchannelQ,
    let ten : List Byte := [q.status, q.tno, q.index, q.rm, q.rs, q.rf, 0x00, q.am, q.as, q.af]
    qBytes q = ten ++ [(qCrc ten).extractLsb' 8 8, (qCrc ten).extractLsb' 0 8]

/-! ## More of the machine -/

/-- 00_scope.md R9, 30_encoding.md R99, 60_exceptions.md R322, R325: no step writes a parameter or the disc, and the opcode
bytes at `State.reset` are pairwise distinct; so they are distinct in every run. -/
def Obligations.ParametersAndDiscAreConstant : Prop :=
  State.reset.params.opcodes.distinct ∧
  ∀ s t : State, step s = .next t → t.params = s.params ∧ t.disc = s.disc

/-- 70_reset_and_hazards.md R347, 40_bus_fsm.md R141: a due sector load takes an Advance in any phase. From another phase
it enters DataIn, and with ACK low the same Advance presents the first byte; in DataIn already, with the last byte of the
sector before acknowledged, REQ falls, and with ACK released the next byte follows with no drain between. StatusCompleted,
MessageCompleted and CommandBuffer keep their values. MODEL'S CHOICE (log 31): the load comes at the first Advance that finds
the queue empty, which may be the one with ACK still high. Last item of R347: a READ that finds bytes queued restarts the
read at its LBA and keeps them in the queue, in Command with REQ low (41_scsi_commands.md R172); while they are queued no
Advance loads a sector, so that no byte of the new READ comes before them. MODEL'S CHOICE (log 32): the spec's files differ on
what then delivers them. With the model's parameter `queuedBytesFirst` they are delivered first, from the first Advance past
the deadline on; without it, the default, R141 and R149 have no edge out of that wait, and an Advance changes nothing. -/
def Obligations.SectorLoadPreemptsAnyPhase : Prop :=
  (∀ (s : State) (now : Nat) (rest : List HostOp) (left : Nat) (byte : Byte) (queue : List Byte),
    s.inputs = .advance now :: rest → s.fault = none → s.bus.sig.rst = false → due s.bus now →
    s.bus.sectorsLeftToRead = left + 1 → s.disc.readBlock s.bus.currentReadingSector 2048 = byte :: queue →
    queue.length = 2047 →
    let loaded : Bus := { s.bus with
      phase := .dataIn
      currentReadingSector := s.bus.currentReadingSector + 1
      sectorsLeftToRead := left
      intDataTransferReady := true
      dataReadInProgress := if left = 0 then false else true
      dataTransferWasDone := if left = 0 then true else s.bus.dataTransferWasDone }
    let after (b : Bus) : Answer := .next { advanced s now rest b with
      calls := s.calls ++ [.blockRead s.bus.currentReadingSector 2048] }
    (s.bus.phase ≠ .dataIn → s.bus.sig.ack = false → s.bus.sig.atn = false → step s = after { loaded with
      dataBits := byte, dataIn := queue, sig := lines s.bus.sig true false false true true }) ∧
    (s.bus.phase ≠ .dataIn → s.bus.sig.ack = true → step s = after { loaded with
      dataIn := byte :: queue, sig := lines s.bus.sig true false false true false }) ∧
    (s.bus.phase = .dataIn → ¬ selecting s.bus → bothHigh s.bus → step s = after { loaded with
      dataIn := byte :: queue, sig := { s.bus.sig with req := false } }) ∧
    (s.bus.phase = .dataIn → ¬ selecting s.bus → bothLow s.bus → s.bus.sig.atn = false → step s = after { loaded with
      dataBits := byte, dataIn := queue, sig := { s.bus.sig with req := true } })) ∧
  ∀ (s : State) (now : Nat) (rest : List HostOp), s.inputs = .advance now :: rest → s.fault = none → s.bus.sig.rst = false →
    (∀ lba count, ¬ due s.bus now → s.bus.phase = .command → ¬ selecting s.bus → bothLow s.bus → s.bus.sig.atn = false →
      decodeCdb s.params.opcodes s.bus.commandBuffer = .ok (.read lba count) → s.bus.dataIn ≠ [] →
      ∃ t, step s = .next t ∧ t.fault = none ∧ t.bus.dataIn = s.bus.dataIn ∧ t.bus.currentReadingSector = lba.toNat ∧
        t.bus.sig = s.bus.sig ∧ t.bus.phase = .command ∧ t.calls = s.calls ++ [.audioStop] ∧
        ∀ later, now + s.params.readDelayCycles < later → behindQueue t.bus later) ∧
    (s.bus.dataIn ≠ [] → (advanced s now rest s.bus).sectorLoad = advanced s now rest s.bus) ∧
    (behindQueue s.bus now → ¬ (s.bus.sig.atn = true ∧ s.bus.sig.ack = false) →
      (s.params.queuedBytesFirst = false ∨ selecting s.bus ∨ s.bus.sig.ack = true → step s = .next (advanced s now rest s.bus)) ∧
      ∀ byte queue, s.params.queuedBytesFirst = true → ¬ selecting s.bus → s.bus.sig.ack = false →
        s.bus.dataIn = byte :: queue → step s = .next (advanced s now rest { s.bus with
          dataBits := byte, dataIn := queue, phase := .dataIn, sig := lines s.bus.sig true false false true true }))

/-- 42_codecs.md R215, R216: the table-driven EDC is the bit-serial CRC of the reflected polynomial from 0, for every byte
sequence, and the table holds it for one byte; appending the EDC least significant byte first gives an EDC of 0. The code is
UNVERIFIED (log 21). -/
def Obligations.EdcIsTheReflectedCrc : Prop :=
  (∀ i : Byte, edcEntry i = edcByteSerial 0 i) ∧
  ∀ bytes : List Byte,
    let e := edc bytes
    e = bytes.foldl edcByteSerial 0 ∧
    edc (bytes ++ [e.extractLsb' 0 8, e.extractLsb' 8 8, e.extractLsb' 16 8, e.extractLsb' 24 8]) = 0

/-- MODEL'S CHOICE (log 30): READ_TOC sub-function 0 with more than 99 tracks leaves the DataIn queue empty, because
41_scsi_commands.md R177 clears it before `BinToBCD` raises F3 and 60_exceptions.md R300 keeps what was written before a
raise, where 93_implementation_defined.md T8 reads that a fault writes nothing. -/
def Obligations.ReadTocBcdRangeClearsQueue : Prop :=
  ∀ s : State, s.fault = none → 99 < s.disc.toc.tracks.length →
    exec (.readToc .trackCount) s = .next { s with
      fault := some (.bcdRange s.disc.toc.tracks.length), calls := s.calls ++ [.tocTrackCount]
      bus := { s.bus with dataIn := [] } }

end
end

