-- ==== Sys2Proof/Laws/Codecs.lean ====
section
/-! SUPPORT. The codecs: what a decoded or encoded BCD byte is, the lengths of the codecs' results, and the two GF(2^8)
tables. -/

namespace Sys2Proof.Machine

/-- Decoding a BCD byte answers one of two things (42_codecs.md R211). -/
theorem bcdToBin_cases (b : Byte) :
    (highNibble b ≤ 9 ∧ lowNibble b ≤ 9 ∧ bcdToBin b = .ok (10 * highNibble b + lowNibble b)) ∨
    ((9 < highNibble b ∨ 9 < lowNibble b) ∧ bcdToBin b = .error (.badBcd b)) := by
  by_cases h : 9 < highNibble b ∨ 9 < lowNibble b
  · exact .inr ⟨h, by simp [bcdToBin, h]⟩
  · exact .inl ⟨by omega, by omega, by simp [bcdToBin, h]⟩

/-- A decoded BCD byte is at most 99. -/
theorem bcdToBin_le {b : Byte} {n : Nat} (h : bcdToBin b = .ok n) : n ≤ 99 := by
  rcases bcdToBin_cases b with ⟨h1, h2, h3⟩ | ⟨_, h3⟩
  · rw [h3] at h; cases h; omega
  · rw [h3] at h; cases h

/-- Only the byte itself is reported as malformed (60_exceptions.md R301). -/
theorem bcdToBin_error {b : Byte} {e : FaultRecord} (h : bcdToBin b = .error e) : e = .badBcd b := by
  rcases bcdToBin_cases b with ⟨_, _, h3⟩ | ⟨_, h3⟩
  · rw [h3] at h; cases h
  · rw [h3] at h; cases h; rfl

/-- The nibbles of an encoded value (42_codecs.md R212). -/
theorem bcdByte_toNat {n : Nat} (h : n ≤ 99) : (bcdByte n).toNat = 16 * (n / 10) + n % 10 := by
  simp only [bcdByte, BitVec.toNat_ofNat]
  omega

/-- Encoding answers one of two things (42_codecs.md R212). -/
theorem binToBcd_cases (n : Nat) :
    (n ≤ 99 ∧ binToBcd n = .ok (bcdByte n)) ∨ (99 < n ∧ binToBcd n = .error (.bcdRange n)) := by
  by_cases h : 99 < n
  · exact .inr ⟨h, by simp [binToBcd, h]⟩
  · exact .inl ⟨by omega, by simp [binToBcd, h]⟩

/-- Converting an LBA answers one of two things, and a time is in range (42_codecs.md R213). -/
theorem lbaToMsf_cases (lba : Int) :
    (-150 ≤ lba ∧ lba ≤ 449849 ∧ ∃ t : Msf, lbaToMsf lba = .ok t ∧ t.m ≤ 99 ∧ t.s ≤ 59 ∧ t.f ≤ 74 ∧
      (lba + 150).toNat = (t.m * 60 + t.s) * 75 + t.f) ∨
    ((lba < -150 ∨ 449849 < lba) ∧ lbaToMsf lba = .error (.msfRange lba)) := by
  by_cases h : lba + 150 < 0 ∨ 449999 < lba + 150
  · exact .inr ⟨by omega, by simp [lbaToMsf, h]⟩
  · refine .inl ⟨by omega, by omega, ⟨(lba + 150).toNat / 4500, ((lba + 150).toNat / 75) % 60,
      (lba + 150).toNat % 75⟩, by simp [lbaToMsf, h], ?_⟩
    simp only
    omega

/-- The bytes of a time: three of them, or the fault (42_codecs.md R213). -/
theorem msfBytes_cases (lba : Int) :
    (∃ t : Msf, lbaToMsf lba = .ok t ∧ msfBytes lba = .ok [bcdByte t.m, bcdByte t.s, bcdByte t.f]) ∨
    msfBytes lba = .error (.msfRange lba) := by
  rcases lbaToMsf_cases lba with ⟨_, _, t, h, _⟩ | ⟨_, h⟩
  · exact .inl ⟨t, h, by simp [msfBytes, h]⟩
  · exact .inr (by simp [msfBytes, h])

@[simp] theorem edcBytes_length (lsbFirst : Bool) (e : Word32) : (edcBytes lsbFirst e).length = 4 := by
  cases lsbFirst <;> rfl

@[simp] theorem recordBytes_length (q : SubchannelQ) : (recordBytes q).length = 9 := rfl

@[simp] theorem qData_length (q : SubchannelQ) : (qData q).length = 10 := rfl

@[simp] theorem qBytes_length (q : SubchannelQ) : (qBytes q).length = 12 := rfl

@[simp] theorem interleave_length (d : List Byte) : (interleave d).length = 96 := by
  simp [interleave, Config.subcodeBytes]

@[simp] theorem deinterleave_length (o : List Byte) : (deinterleave o).length = 96 := by
  simp [deinterleave, Config.subcodeBytes]

/-- Doubling is additive in GF(2^8) (42_codecs.md R217). -/
theorem gfDouble_xor (a b : Byte) : gfDouble (a ^^^ b) = gfDouble a ^^^ gfDouble b := by
  have h : (a ^^^ b).getLsbD 7 = (a.getLsbD 7 ^^ b.getLsbD 7) := by simp
  unfold gfDouble
  rw [h, BitVec.shiftLeft_xor_distrib]
  generalize a <<< 1 = x
  generalize b <<< 1 = y
  have swap : (x ^^^ 0x1D#8) ^^^ (y ^^^ 0x1D#8) = (x ^^^ y) ^^^ (0x1D#8 ^^^ 0x1D#8) := by ac_rfl
  cases a.getLsbD 7 <;> cases b.getLsbD 7
  · simp
  · simp [BitVec.xor_assoc]
  · simp only [Bool.xor_false, if_true, Bool.false_eq_true, if_false, BitVec.xor_zero]
    ac_rfl
  · simpa using swap.symm

/-- `gfUnmix` divides by 1 + α (42_codecs.md R217). -/
theorem gfUnmix_spec (j : Byte) : gfUnmix j ^^^ gfDouble (gfUnmix j) = j := by
  revert j
  decide +kernel

/-- The two parity halves of an ECC block, as many bytes as columns. -/
theorem eccBlock_length {f : List Byte} {majorCount minorCount majorMult minorInc dest : Nat}
    (h : dest + 2 * majorCount ≤ f.length) :
    (eccBlock f majorCount minorCount majorMult minorInc dest).length = f.length := by
  unfold eccBlock memWrite
  simp
  omega

end Sys2Proof.Machine
end

