-- ==== Sys2Proof/Laws/Decode.lean ====
section
/-! SUPPORT. The decoder: what byte 0 alone decides, for opcode bytes that are pairwise distinct (30_encoding.md R91, R99). -/

namespace Sys2Proof

/-! ## The length of a CDB -/

theorem cdbLength_of_sixByte {o : Opcodes} {op : Byte} (h : op ∈ o.sixByte) : cdbLength o op = 6 := by simp [cdbLength, h]

/-- Distinct opcodes: none of a 10-byte CDB is one of a 6-byte CDB. -/
theorem Opcodes.not_sixByte {o : Opcodes} (hd : o.distinct) {op : Byte} (h : op ∈ o.tenByte) : op ∉ o.sixByte :=
  fun h6 => (List.nodup_append.1 hd).2.2 op h6 op h rfl

theorem cdbLength_of_tenByte {o : Opcodes} (hd : o.distinct) {op : Byte} (h : op ∈ o.tenByte) : cdbLength o op = 10 := by
  simp [cdbLength, Opcodes.not_sixByte hd h, h]

theorem cdbLength_of_unassigned {o : Opcodes} {op : Byte} (h : op ∉ o.assigned) : cdbLength o op = 1 := by
  simp only [Opcodes.assigned, List.mem_append, not_or] at h
  simp [cdbLength, h.1, h.2]

/-! ## What the decoder answers -/

/-- All that decoding a CDB with a first byte can do (30_encoding.md R91). -/
theorem decodeCdb_cons (o : Opcodes) (op : Byte) (rest : List Byte) :
    decodeCdb o (op :: rest) =
      if rest.length + 1 < cdbLength o op then .error (.needMoreData (rest.length + 1) (cdbLength o op))
      else .ok (decodeFields o op (op :: rest)) := rfl

/-- The command of each assigned opcode byte (30_encoding.md R99). -/
theorem decodeFields_of_assigned {o : Opcodes} (hd : o.distinct) (cdb : List Byte) :
    decodeFields o o.testUnitReady cdb = .testUnitReady ∧
    decodeFields o o.read cdb =
      .read ((cdbByte cdb 1).extractLsb' 0 5 ++ cdbByte cdb 2 ++ cdbByte cdb 3) (cdbByte cdb 4) ∧
    decodeFields o o.audioStartPos cdb = .audioStartPos (cdbByte cdb 1) (decodeAudioAddr cdb) ∧
    decodeFields o o.audioEndPos cdb = .audioEndPos (cdbByte cdb 1) (decodeAudioAddr cdb) ∧
    decodeFields o o.pause cdb = .pause ∧
    decodeFields o o.readSubcodeQ cdb = .readSubcodeQ ∧
    decodeFields o o.readToc cdb = .readToc (decodeTocRequest cdb) := by
  simp only [Opcodes.distinct, Opcodes.assigned, Opcodes.sixByte, Opcodes.tenByte, List.cons_append, List.nil_append,
    List.nodup_cons, List.mem_cons, List.not_mem_nil, or_false, not_or] at hd
  simp_all [decodeFields, eq_comm]

/-- Every other byte 0 is the unrecognized command (30_encoding.md R102). -/
theorem decodeFields_of_unassigned {o : Opcodes} {op : Byte} (h : op ∉ o.assigned) (cdb : List Byte) :
    decodeFields o op cdb = .unrecognized op := by
  simp_all [decodeFields, Opcodes.assigned, Opcodes.sixByte, Opcodes.tenByte]

end Sys2Proof
end

