-- ==== Sys2Proof/Laws/State.lean ====
section
/-! SUPPORT. The small lemmas of the state's updates: one per field per update. A field that an update does not write reads
as before. -/

namespace Sys2Proof.Machine

/-! ### raise -/

@[simp] theorem State.raise_bus (s : State) (e : FaultRecord) : (s.raise e).bus = s.bus := by
  unfold State.raise; split <;> rfl
@[simp] theorem State.raise_params (s : State) (e : FaultRecord) : (s.raise e).params = s.params := by
  unfold State.raise; split <;> rfl
@[simp] theorem State.raise_audio (s : State) (e : FaultRecord) : (s.raise e).audio = s.audio := by
  unfold State.raise; split <;> rfl
@[simp] theorem State.raise_disc (s : State) (e : FaultRecord) : (s.raise e).disc = s.disc := by
  unfold State.raise; split <;> rfl
@[simp] theorem State.raise_dest (s : State) (e : FaultRecord) : (s.raise e).dest = s.dest := by
  unfold State.raise; split <;> rfl
@[simp] theorem State.raise_destLen (s : State) (e : FaultRecord) : (s.raise e).destLen = s.destLen := by
  unfold State.raise; split <;> rfl
@[simp] theorem State.raise_now (s : State) (e : FaultRecord) : (s.raise e).now = s.now := by
  unfold State.raise; split <;> rfl
@[simp] theorem State.raise_inputs (s : State) (e : FaultRecord) : (s.raise e).inputs = s.inputs := by
  unfold State.raise; split <;> rfl
@[simp] theorem State.raise_replies (s : State) (e : FaultRecord) : (s.raise e).replies = s.replies := by
  unfold State.raise; split <;> rfl
@[simp] theorem State.raise_calls (s : State) (e : FaultRecord) : (s.raise e).calls = s.calls := by
  unfold State.raise; split <;> rfl
@[simp] theorem State.raise_freeCount (s : State) (e : FaultRecord) : (s.raise e).freeCount = s.freeCount := by
  unfold State.raise; split <;> rfl

/-- A raise records the first fault only (60_exceptions.md R300). -/
@[simp] theorem State.raise_fault (s : State) (e : FaultRecord) : (s.raise e).fault = some (s.fault.getD e) := by
  unfold State.raise; split <;> simp_all

@[simp] theorem State.raise_faulted (s : State) (e : FaultRecord) : (s.raise e).faulted = true := by
  simp [State.faulted]

/-- On a state with no fault a raise is one write. -/
theorem State.raise_of_fault_none (s : State) (e : FaultRecord) (h : s.fault = none) :
    s.raise e = { s with fault := some e } := by
  unfold State.raise; rw [h]

theorem State.faulted_eq_false (s : State) : s.faulted = false ↔ s.fault = none := by
  simp [State.faulted]

/-! ### called -/

@[simp] theorem State.called_bus (s : State) (cs : List Call) : (s.called cs).bus = s.bus := rfl
@[simp] theorem State.called_fault (s : State) (cs : List Call) : (s.called cs).fault = s.fault := rfl
@[simp] theorem State.called_params (s : State) (cs : List Call) : (s.called cs).params = s.params := rfl
@[simp] theorem State.called_audio (s : State) (cs : List Call) : (s.called cs).audio = s.audio := rfl
@[simp] theorem State.called_disc (s : State) (cs : List Call) : (s.called cs).disc = s.disc := rfl
@[simp] theorem State.called_dest (s : State) (cs : List Call) : (s.called cs).dest = s.dest := rfl
@[simp] theorem State.called_destLen (s : State) (cs : List Call) : (s.called cs).destLen = s.destLen := rfl
@[simp] theorem State.called_now (s : State) (cs : List Call) : (s.called cs).now = s.now := rfl
@[simp] theorem State.called_inputs (s : State) (cs : List Call) : (s.called cs).inputs = s.inputs := rfl
@[simp] theorem State.called_replies (s : State) (cs : List Call) : (s.called cs).replies = s.replies := rfl
@[simp] theorem State.called_freeCount (s : State) (cs : List Call) : (s.called cs).freeCount = s.freeCount := rfl
@[simp] theorem State.called_calls (s : State) (cs : List Call) : (s.called cs).calls = s.calls ++ cs := rfl

/-! ### audioPlayFrom -/

@[simp] theorem State.audioPlayFrom_bus (s : State) (l : Int) : (s.audioPlayFrom l).bus = s.bus := rfl
@[simp] theorem State.audioPlayFrom_fault (s : State) (l : Int) : (s.audioPlayFrom l).fault = s.fault := rfl
@[simp] theorem State.audioPlayFrom_params (s : State) (l : Int) : (s.audioPlayFrom l).params = s.params := rfl
@[simp] theorem State.audioPlayFrom_disc (s : State) (l : Int) : (s.audioPlayFrom l).disc = s.disc := rfl
@[simp] theorem State.audioPlayFrom_dest (s : State) (l : Int) : (s.audioPlayFrom l).dest = s.dest := rfl
@[simp] theorem State.audioPlayFrom_destLen (s : State) (l : Int) : (s.audioPlayFrom l).destLen = s.destLen := rfl
@[simp] theorem State.audioPlayFrom_now (s : State) (l : Int) : (s.audioPlayFrom l).now = s.now := rfl
@[simp] theorem State.audioPlayFrom_inputs (s : State) (l : Int) : (s.audioPlayFrom l).inputs = s.inputs := rfl
@[simp] theorem State.audioPlayFrom_replies (s : State) (l : Int) : (s.audioPlayFrom l).replies = s.replies := rfl
@[simp] theorem State.audioPlayFrom_freeCount (s : State) (l : Int) : (s.audioPlayFrom l).freeCount = s.freeCount := rfl
@[simp] theorem State.audioPlayFrom_calls (s : State) (l : Int) : (s.audioPlayFrom l).calls = s.calls ++ [.audioPlayFrom l] := rfl
@[simp] theorem State.audioPlayFrom_audio (s : State) (l : Int) : (s.audioPlayFrom l).audio = { s.audio with mode := .playing, currentSector := l } := rfl

/-! ### audioPause -/

@[simp] theorem State.audioPause_bus (s : State) : (s.audioPause).bus = s.bus := rfl
@[simp] theorem State.audioPause_fault (s : State) : (s.audioPause).fault = s.fault := rfl
@[simp] theorem State.audioPause_params (s : State) : (s.audioPause).params = s.params := rfl
@[simp] theorem State.audioPause_disc (s : State) : (s.audioPause).disc = s.disc := rfl
@[simp] theorem State.audioPause_dest (s : State) : (s.audioPause).dest = s.dest := rfl
@[simp] theorem State.audioPause_destLen (s : State) : (s.audioPause).destLen = s.destLen := rfl
@[simp] theorem State.audioPause_now (s : State) : (s.audioPause).now = s.now := rfl
@[simp] theorem State.audioPause_inputs (s : State) : (s.audioPause).inputs = s.inputs := rfl
@[simp] theorem State.audioPause_replies (s : State) : (s.audioPause).replies = s.replies := rfl
@[simp] theorem State.audioPause_freeCount (s : State) : (s.audioPause).freeCount = s.freeCount := rfl
@[simp] theorem State.audioPause_calls (s : State) : (s.audioPause).calls = s.calls ++ [.audioPause] := rfl
@[simp] theorem State.audioPause_audio (s : State) : (s.audioPause).audio = { s.audio with mode := if s.audio.mode = .playing then .paused else s.audio.mode } := rfl

/-! ### audioStop -/

@[simp] theorem State.audioStop_bus (s : State) : (s.audioStop).bus = s.bus := rfl
@[simp] theorem State.audioStop_fault (s : State) : (s.audioStop).fault = s.fault := rfl
@[simp] theorem State.audioStop_params (s : State) : (s.audioStop).params = s.params := rfl
@[simp] theorem State.audioStop_disc (s : State) : (s.audioStop).disc = s.disc := rfl
@[simp] theorem State.audioStop_dest (s : State) : (s.audioStop).dest = s.dest := rfl
@[simp] theorem State.audioStop_destLen (s : State) : (s.audioStop).destLen = s.destLen := rfl
@[simp] theorem State.audioStop_now (s : State) : (s.audioStop).now = s.now := rfl
@[simp] theorem State.audioStop_inputs (s : State) : (s.audioStop).inputs = s.inputs := rfl
@[simp] theorem State.audioStop_replies (s : State) : (s.audioStop).replies = s.replies := rfl
@[simp] theorem State.audioStop_freeCount (s : State) : (s.audioStop).freeCount = s.freeCount := rfl
@[simp] theorem State.audioStop_calls (s : State) : (s.audioStop).calls = s.calls ++ [.audioStop] := rfl
@[simp] theorem State.audioStop_audio (s : State) : (s.audioStop).audio = { s.audio with mode := .stopped } := rfl

/-! ### audioSetEnd -/

@[simp] theorem State.audioSetEnd_bus (s : State) (l : Int) (m : PlayMode) : (s.audioSetEnd l m).bus = s.bus := rfl
@[simp] theorem State.audioSetEnd_fault (s : State) (l : Int) (m : PlayMode) : (s.audioSetEnd l m).fault = s.fault := rfl
@[simp] theorem State.audioSetEnd_params (s : State) (l : Int) (m : PlayMode) : (s.audioSetEnd l m).params = s.params := rfl
@[simp] theorem State.audioSetEnd_disc (s : State) (l : Int) (m : PlayMode) : (s.audioSetEnd l m).disc = s.disc := rfl
@[simp] theorem State.audioSetEnd_dest (s : State) (l : Int) (m : PlayMode) : (s.audioSetEnd l m).dest = s.dest := rfl
@[simp] theorem State.audioSetEnd_destLen (s : State) (l : Int) (m : PlayMode) : (s.audioSetEnd l m).destLen = s.destLen := rfl
@[simp] theorem State.audioSetEnd_now (s : State) (l : Int) (m : PlayMode) : (s.audioSetEnd l m).now = s.now := rfl
@[simp] theorem State.audioSetEnd_inputs (s : State) (l : Int) (m : PlayMode) : (s.audioSetEnd l m).inputs = s.inputs := rfl
@[simp] theorem State.audioSetEnd_replies (s : State) (l : Int) (m : PlayMode) : (s.audioSetEnd l m).replies = s.replies := rfl
@[simp] theorem State.audioSetEnd_freeCount (s : State) (l : Int) (m : PlayMode) : (s.audioSetEnd l m).freeCount = s.freeCount := rfl
@[simp] theorem State.audioSetEnd_calls (s : State) (l : Int) (m : PlayMode) : (s.audioSetEnd l m).calls = s.calls ++ [.audioSetEndLBA l, .audioSetPlayMode m] := rfl
@[simp] theorem State.audioSetEnd_audio (s : State) (l : Int) (m : PlayMode) : (s.audioSetEnd l m).audio = { s.audio with endLBA := l, playMode := m } := rfl

/-! ### enterGoodStatus -/

@[simp] theorem State.enterGoodStatus_fault (s : State) : (s.enterGoodStatus).fault = s.fault := rfl
@[simp] theorem State.enterGoodStatus_params (s : State) : (s.enterGoodStatus).params = s.params := rfl
@[simp] theorem State.enterGoodStatus_audio (s : State) : (s.enterGoodStatus).audio = s.audio := rfl
@[simp] theorem State.enterGoodStatus_disc (s : State) : (s.enterGoodStatus).disc = s.disc := rfl
@[simp] theorem State.enterGoodStatus_dest (s : State) : (s.enterGoodStatus).dest = s.dest := rfl
@[simp] theorem State.enterGoodStatus_destLen (s : State) : (s.enterGoodStatus).destLen = s.destLen := rfl
@[simp] theorem State.enterGoodStatus_now (s : State) : (s.enterGoodStatus).now = s.now := rfl
@[simp] theorem State.enterGoodStatus_inputs (s : State) : (s.enterGoodStatus).inputs = s.inputs := rfl
@[simp] theorem State.enterGoodStatus_replies (s : State) : (s.enterGoodStatus).replies = s.replies := rfl
@[simp] theorem State.enterGoodStatus_calls (s : State) : (s.enterGoodStatus).calls = s.calls := rfl
@[simp] theorem State.enterGoodStatus_freeCount (s : State) : (s.enterGoodStatus).freeCount = s.freeCount := rfl
@[simp] theorem State.enterGoodStatus_bus (s : State) : (s.enterGoodStatus).bus = s.bus.enterGoodStatus := rfl

/-! ### reply -/

@[simp] theorem State.reply_bus (s : State) (r : HostReply) : (s.reply r).bus = s.bus := rfl
@[simp] theorem State.reply_fault (s : State) (r : HostReply) : (s.reply r).fault = s.fault := rfl
@[simp] theorem State.reply_params (s : State) (r : HostReply) : (s.reply r).params = s.params := rfl
@[simp] theorem State.reply_audio (s : State) (r : HostReply) : (s.reply r).audio = s.audio := rfl
@[simp] theorem State.reply_disc (s : State) (r : HostReply) : (s.reply r).disc = s.disc := rfl
@[simp] theorem State.reply_dest (s : State) (r : HostReply) : (s.reply r).dest = s.dest := rfl
@[simp] theorem State.reply_destLen (s : State) (r : HostReply) : (s.reply r).destLen = s.destLen := rfl
@[simp] theorem State.reply_now (s : State) (r : HostReply) : (s.reply r).now = s.now := rfl
@[simp] theorem State.reply_inputs (s : State) (r : HostReply) : (s.reply r).inputs = s.inputs := rfl
@[simp] theorem State.reply_calls (s : State) (r : HostReply) : (s.reply r).calls = s.calls := rfl
@[simp] theorem State.reply_freeCount (s : State) (r : HostReply) : (s.reply r).freeCount = s.freeCount := rfl
@[simp] theorem State.reply_replies (s : State) (r : HostReply) : (s.reply r).replies = s.replies ++ [r] := rfl

/-! ### writeSignal -/

@[simp] theorem State.writeSignal_fault (s : State) (l : Line) (b : Bool) : (s.writeSignal l b).fault = s.fault := rfl
@[simp] theorem State.writeSignal_params (s : State) (l : Line) (b : Bool) : (s.writeSignal l b).params = s.params := rfl
@[simp] theorem State.writeSignal_audio (s : State) (l : Line) (b : Bool) : (s.writeSignal l b).audio = s.audio := rfl
@[simp] theorem State.writeSignal_disc (s : State) (l : Line) (b : Bool) : (s.writeSignal l b).disc = s.disc := rfl
@[simp] theorem State.writeSignal_dest (s : State) (l : Line) (b : Bool) : (s.writeSignal l b).dest = s.dest := rfl
@[simp] theorem State.writeSignal_destLen (s : State) (l : Line) (b : Bool) : (s.writeSignal l b).destLen = s.destLen := rfl
@[simp] theorem State.writeSignal_now (s : State) (l : Line) (b : Bool) : (s.writeSignal l b).now = s.now := rfl
@[simp] theorem State.writeSignal_inputs (s : State) (l : Line) (b : Bool) : (s.writeSignal l b).inputs = s.inputs := rfl
@[simp] theorem State.writeSignal_replies (s : State) (l : Line) (b : Bool) : (s.writeSignal l b).replies = s.replies := rfl
@[simp] theorem State.writeSignal_calls (s : State) (l : Line) (b : Bool) : (s.writeSignal l b).calls = s.calls := rfl
@[simp] theorem State.writeSignal_freeCount (s : State) (l : Line) (b : Bool) : (s.writeSignal l b).freeCount = s.freeCount := rfl
@[simp] theorem State.writeSignal_bus (s : State) (l : Line) (b : Bool) : (s.writeSignal l b).bus = { s.bus with sig := s.bus.sig.set l b } := rfl

/-! ### writeData -/

@[simp] theorem State.writeData_fault (s : State) (v : Byte) : (s.writeData v).fault = s.fault := rfl
@[simp] theorem State.writeData_params (s : State) (v : Byte) : (s.writeData v).params = s.params := rfl
@[simp] theorem State.writeData_audio (s : State) (v : Byte) : (s.writeData v).audio = s.audio := rfl
@[simp] theorem State.writeData_disc (s : State) (v : Byte) : (s.writeData v).disc = s.disc := rfl
@[simp] theorem State.writeData_dest (s : State) (v : Byte) : (s.writeData v).dest = s.dest := rfl
@[simp] theorem State.writeData_destLen (s : State) (v : Byte) : (s.writeData v).destLen = s.destLen := rfl
@[simp] theorem State.writeData_now (s : State) (v : Byte) : (s.writeData v).now = s.now := rfl
@[simp] theorem State.writeData_inputs (s : State) (v : Byte) : (s.writeData v).inputs = s.inputs := rfl
@[simp] theorem State.writeData_replies (s : State) (v : Byte) : (s.writeData v).replies = s.replies := rfl
@[simp] theorem State.writeData_calls (s : State) (v : Byte) : (s.writeData v).calls = s.calls := rfl
@[simp] theorem State.writeData_freeCount (s : State) (v : Byte) : (s.writeData v).freeCount = s.freeCount := rfl
@[simp] theorem State.writeData_bus (s : State) (v : Byte) : (s.writeData v).bus = { s.bus with dataBits := v } := rfl

/-! ### ackInterrupt -/

@[simp] theorem State.ackInterrupt_fault (s : State) : (s.ackInterrupt).fault = s.fault := rfl
@[simp] theorem State.ackInterrupt_params (s : State) : (s.ackInterrupt).params = s.params := rfl
@[simp] theorem State.ackInterrupt_audio (s : State) : (s.ackInterrupt).audio = s.audio := rfl
@[simp] theorem State.ackInterrupt_disc (s : State) : (s.ackInterrupt).disc = s.disc := rfl
@[simp] theorem State.ackInterrupt_dest (s : State) : (s.ackInterrupt).dest = s.dest := rfl
@[simp] theorem State.ackInterrupt_destLen (s : State) : (s.ackInterrupt).destLen = s.destLen := rfl
@[simp] theorem State.ackInterrupt_now (s : State) : (s.ackInterrupt).now = s.now := rfl
@[simp] theorem State.ackInterrupt_inputs (s : State) : (s.ackInterrupt).inputs = s.inputs := rfl
@[simp] theorem State.ackInterrupt_replies (s : State) : (s.ackInterrupt).replies = s.replies := rfl
@[simp] theorem State.ackInterrupt_calls (s : State) : (s.ackInterrupt).calls = s.calls := rfl
@[simp] theorem State.ackInterrupt_freeCount (s : State) : (s.ackInterrupt).freeCount = s.freeCount := rfl
@[simp] theorem State.ackInterrupt_bus (s : State) : (s.ackInterrupt).bus = { s.bus with intDataTransferComplete := false } := rfl

/-! ### provideDest -/

@[simp] theorem State.provideDest_bus (s : State) (bs : List Byte) : (s.provideDest bs).bus = s.bus := rfl
@[simp] theorem State.provideDest_fault (s : State) (bs : List Byte) : (s.provideDest bs).fault = s.fault := rfl
@[simp] theorem State.provideDest_params (s : State) (bs : List Byte) : (s.provideDest bs).params = s.params := rfl
@[simp] theorem State.provideDest_audio (s : State) (bs : List Byte) : (s.provideDest bs).audio = s.audio := rfl
@[simp] theorem State.provideDest_disc (s : State) (bs : List Byte) : (s.provideDest bs).disc = s.disc := rfl
@[simp] theorem State.provideDest_now (s : State) (bs : List Byte) : (s.provideDest bs).now = s.now := rfl
@[simp] theorem State.provideDest_inputs (s : State) (bs : List Byte) : (s.provideDest bs).inputs = s.inputs := rfl
@[simp] theorem State.provideDest_replies (s : State) (bs : List Byte) : (s.provideDest bs).replies = s.replies := rfl
@[simp] theorem State.provideDest_calls (s : State) (bs : List Byte) : (s.provideDest bs).calls = s.calls := rfl
@[simp] theorem State.provideDest_freeCount (s : State) (bs : List Byte) : (s.provideDest bs).freeCount = s.freeCount := rfl
@[simp] theorem State.provideDest_dest (s : State) (bs : List Byte) : (s.provideDest bs).dest = cellsOf 0 bs := rfl
@[simp] theorem State.provideDest_destLen (s : State) (bs : List Byte) : (s.provideDest bs).destLen = bs.length := rfl

/-! ### setPhase -/

@[simp] theorem Bus.setPhase_dataBits (b : Bus) (p : BusPhase) : (b.setPhase p).dataBits = b.dataBits := by
  unfold Bus.setPhase; split <;> rfl
@[simp] theorem Bus.setPhase_commandBuffer (b : Bus) (p : BusPhase) : (b.setPhase p).commandBuffer = b.commandBuffer := by
  unfold Bus.setPhase; split <;> rfl
@[simp] theorem Bus.setPhase_dataIn (b : Bus) (p : BusPhase) : (b.setPhase p).dataIn = b.dataIn := by
  unfold Bus.setPhase; split <;> rfl
@[simp] theorem Bus.setPhase_currentReadingSector (b : Bus) (p : BusPhase) : (b.setPhase p).currentReadingSector = b.currentReadingSector := by
  unfold Bus.setPhase; split <;> rfl
@[simp] theorem Bus.setPhase_sectorsLeftToRead (b : Bus) (p : BusPhase) : (b.setPhase p).sectorsLeftToRead = b.sectorsLeftToRead := by
  unfold Bus.setPhase; split <;> rfl
@[simp] theorem Bus.setPhase_dataReadWaitTimer (b : Bus) (p : BusPhase) : (b.setPhase p).dataReadWaitTimer = b.dataReadWaitTimer := by
  unfold Bus.setPhase; split <;> rfl
@[simp] theorem Bus.setPhase_dataReadInProgress (b : Bus) (p : BusPhase) : (b.setPhase p).dataReadInProgress = b.dataReadInProgress := by
  unfold Bus.setPhase; split <;> rfl
@[simp] theorem Bus.setPhase_dataTransferInProgress (b : Bus) (p : BusPhase) : (b.setPhase p).dataTransferInProgress = b.dataTransferInProgress := by
  unfold Bus.setPhase; split <;> rfl
@[simp] theorem Bus.setPhase_dataTransferWasDone (b : Bus) (p : BusPhase) : (b.setPhase p).dataTransferWasDone = b.dataTransferWasDone := by
  unfold Bus.setPhase; split <;> rfl
@[simp] theorem Bus.setPhase_messageValue (b : Bus) (p : BusPhase) : (b.setPhase p).messageValue = b.messageValue := by
  unfold Bus.setPhase; split <;> rfl
@[simp] theorem Bus.setPhase_statusCompleted (b : Bus) (p : BusPhase) : (b.setPhase p).statusCompleted = b.statusCompleted := by
  unfold Bus.setPhase; split <;> rfl
@[simp] theorem Bus.setPhase_messageCompleted (b : Bus) (p : BusPhase) : (b.setPhase p).messageCompleted = b.messageCompleted := by
  unfold Bus.setPhase; split <;> rfl
@[simp] theorem Bus.setPhase_audioStartLBA (b : Bus) (p : BusPhase) : (b.setPhase p).audioStartLBA = b.audioStartLBA := by
  unfold Bus.setPhase; split <;> rfl
@[simp] theorem Bus.setPhase_audioEndLBA (b : Bus) (p : BusPhase) : (b.setPhase p).audioEndLBA = b.audioEndLBA := by
  unfold Bus.setPhase; split <;> rfl
@[simp] theorem Bus.setPhase_intDataTransferReady (b : Bus) (p : BusPhase) : (b.setPhase p).intDataTransferReady = b.intDataTransferReady := by
  unfold Bus.setPhase; split <;> rfl
@[simp] theorem Bus.setPhase_intDataTransferComplete (b : Bus) (p : BusPhase) : (b.setPhase p).intDataTransferComplete = b.intDataTransferComplete := by
  unfold Bus.setPhase; split <;> rfl
@[simp] theorem Bus.setPhase_phase (b : Bus) (p : BusPhase) : (b.setPhase p).phase = p := by
  unfold Bus.setPhase; split <;> simp_all

/-! ### setReq -/

@[simp] theorem Bus.setReq_dataBits (b : Bus) (v : Bool) : (b.setReq v).dataBits = b.dataBits := rfl
@[simp] theorem Bus.setReq_phase (b : Bus) (v : Bool) : (b.setReq v).phase = b.phase := rfl
@[simp] theorem Bus.setReq_commandBuffer (b : Bus) (v : Bool) : (b.setReq v).commandBuffer = b.commandBuffer := rfl
@[simp] theorem Bus.setReq_dataIn (b : Bus) (v : Bool) : (b.setReq v).dataIn = b.dataIn := rfl
@[simp] theorem Bus.setReq_currentReadingSector (b : Bus) (v : Bool) : (b.setReq v).currentReadingSector = b.currentReadingSector := rfl
@[simp] theorem Bus.setReq_sectorsLeftToRead (b : Bus) (v : Bool) : (b.setReq v).sectorsLeftToRead = b.sectorsLeftToRead := rfl
@[simp] theorem Bus.setReq_dataReadWaitTimer (b : Bus) (v : Bool) : (b.setReq v).dataReadWaitTimer = b.dataReadWaitTimer := rfl
@[simp] theorem Bus.setReq_dataReadInProgress (b : Bus) (v : Bool) : (b.setReq v).dataReadInProgress = b.dataReadInProgress := rfl
@[simp] theorem Bus.setReq_dataTransferInProgress (b : Bus) (v : Bool) : (b.setReq v).dataTransferInProgress = b.dataTransferInProgress := rfl
@[simp] theorem Bus.setReq_dataTransferWasDone (b : Bus) (v : Bool) : (b.setReq v).dataTransferWasDone = b.dataTransferWasDone := rfl
@[simp] theorem Bus.setReq_messageValue (b : Bus) (v : Bool) : (b.setReq v).messageValue = b.messageValue := rfl
@[simp] theorem Bus.setReq_statusCompleted (b : Bus) (v : Bool) : (b.setReq v).statusCompleted = b.statusCompleted := rfl
@[simp] theorem Bus.setReq_messageCompleted (b : Bus) (v : Bool) : (b.setReq v).messageCompleted = b.messageCompleted := rfl
@[simp] theorem Bus.setReq_audioStartLBA (b : Bus) (v : Bool) : (b.setReq v).audioStartLBA = b.audioStartLBA := rfl
@[simp] theorem Bus.setReq_audioEndLBA (b : Bus) (v : Bool) : (b.setReq v).audioEndLBA = b.audioEndLBA := rfl
@[simp] theorem Bus.setReq_intDataTransferReady (b : Bus) (v : Bool) : (b.setReq v).intDataTransferReady = b.intDataTransferReady := rfl
@[simp] theorem Bus.setReq_intDataTransferComplete (b : Bus) (v : Bool) : (b.setReq v).intDataTransferComplete = b.intDataTransferComplete := rfl
@[simp] theorem Bus.setReq_sig (b : Bus) (v : Bool) : (b.setReq v).sig = { b.sig with req := v } := rfl

/-! ### enterStatus -/

@[simp] theorem Bus.enterStatus_dataBits (b : Bus) (status message : Byte) : (b.enterStatus status message).dataBits = status := by
  simp [Bus.enterStatus]
@[simp] theorem Bus.enterStatus_phase (b : Bus) (status message : Byte) : (b.enterStatus status message).phase = .status := by
  simp [Bus.enterStatus]
@[simp] theorem Bus.enterStatus_commandBuffer (b : Bus) (status message : Byte) : (b.enterStatus status message).commandBuffer = b.commandBuffer := by
  simp [Bus.enterStatus]
@[simp] theorem Bus.enterStatus_dataIn (b : Bus) (status message : Byte) : (b.enterStatus status message).dataIn = b.dataIn := by
  simp [Bus.enterStatus]
@[simp] theorem Bus.enterStatus_currentReadingSector (b : Bus) (status message : Byte) : (b.enterStatus status message).currentReadingSector = b.currentReadingSector := by
  simp [Bus.enterStatus]
@[simp] theorem Bus.enterStatus_sectorsLeftToRead (b : Bus) (status message : Byte) : (b.enterStatus status message).sectorsLeftToRead = b.sectorsLeftToRead := by
  simp [Bus.enterStatus]
@[simp] theorem Bus.enterStatus_dataReadWaitTimer (b : Bus) (status message : Byte) : (b.enterStatus status message).dataReadWaitTimer = b.dataReadWaitTimer := by
  simp [Bus.enterStatus]
@[simp] theorem Bus.enterStatus_dataReadInProgress (b : Bus) (status message : Byte) : (b.enterStatus status message).dataReadInProgress = b.dataReadInProgress := by
  simp [Bus.enterStatus]
@[simp] theorem Bus.enterStatus_dataTransferInProgress (b : Bus) (status message : Byte) : (b.enterStatus status message).dataTransferInProgress = b.dataTransferInProgress := by
  simp [Bus.enterStatus]
@[simp] theorem Bus.enterStatus_dataTransferWasDone (b : Bus) (status message : Byte) : (b.enterStatus status message).dataTransferWasDone = b.dataTransferWasDone := by
  simp [Bus.enterStatus]
@[simp] theorem Bus.enterStatus_messageValue (b : Bus) (status message : Byte) : (b.enterStatus status message).messageValue = message := by
  simp [Bus.enterStatus]
@[simp] theorem Bus.enterStatus_statusCompleted (b : Bus) (status message : Byte) : (b.enterStatus status message).statusCompleted = false := by
  simp [Bus.enterStatus]
@[simp] theorem Bus.enterStatus_messageCompleted (b : Bus) (status message : Byte) : (b.enterStatus status message).messageCompleted = false := by
  simp [Bus.enterStatus]
@[simp] theorem Bus.enterStatus_audioStartLBA (b : Bus) (status message : Byte) : (b.enterStatus status message).audioStartLBA = b.audioStartLBA := by
  simp [Bus.enterStatus]
@[simp] theorem Bus.enterStatus_audioEndLBA (b : Bus) (status message : Byte) : (b.enterStatus status message).audioEndLBA = b.audioEndLBA := by
  simp [Bus.enterStatus]
@[simp] theorem Bus.enterStatus_intDataTransferReady (b : Bus) (status message : Byte) : (b.enterStatus status message).intDataTransferReady = b.intDataTransferReady := by
  simp [Bus.enterStatus]
@[simp] theorem Bus.enterStatus_intDataTransferComplete (b : Bus) (status message : Byte) : (b.enterStatus status message).intDataTransferComplete = b.intDataTransferComplete := by
  simp [Bus.enterStatus]

/-! ### enterGoodStatus on the bus -/

@[simp] theorem Bus.enterGoodStatus_dataBits (b : Bus) : b.enterGoodStatus.dataBits = statusGood := by
  simp [Bus.enterGoodStatus]
@[simp] theorem Bus.enterGoodStatus_phase (b : Bus) : b.enterGoodStatus.phase = .status := by
  simp [Bus.enterGoodStatus]
@[simp] theorem Bus.enterGoodStatus_commandBuffer (b : Bus) : b.enterGoodStatus.commandBuffer = b.commandBuffer := by
  simp [Bus.enterGoodStatus]
@[simp] theorem Bus.enterGoodStatus_dataIn (b : Bus) : b.enterGoodStatus.dataIn = b.dataIn := by
  simp [Bus.enterGoodStatus]
@[simp] theorem Bus.enterGoodStatus_currentReadingSector (b : Bus) : b.enterGoodStatus.currentReadingSector = b.currentReadingSector := by
  simp [Bus.enterGoodStatus]
@[simp] theorem Bus.enterGoodStatus_sectorsLeftToRead (b : Bus) : b.enterGoodStatus.sectorsLeftToRead = b.sectorsLeftToRead := by
  simp [Bus.enterGoodStatus]
@[simp] theorem Bus.enterGoodStatus_dataReadWaitTimer (b : Bus) : b.enterGoodStatus.dataReadWaitTimer = b.dataReadWaitTimer := by
  simp [Bus.enterGoodStatus]
@[simp] theorem Bus.enterGoodStatus_dataReadInProgress (b : Bus) : b.enterGoodStatus.dataReadInProgress = b.dataReadInProgress := by
  simp [Bus.enterGoodStatus]
@[simp] theorem Bus.enterGoodStatus_dataTransferInProgress (b : Bus) : b.enterGoodStatus.dataTransferInProgress = b.dataTransferInProgress := by
  simp [Bus.enterGoodStatus]
@[simp] theorem Bus.enterGoodStatus_dataTransferWasDone (b : Bus) : b.enterGoodStatus.dataTransferWasDone = b.dataTransferWasDone := by
  simp [Bus.enterGoodStatus]
@[simp] theorem Bus.enterGoodStatus_messageValue (b : Bus) : b.enterGoodStatus.messageValue = messageCommandComplete := by
  simp [Bus.enterGoodStatus]
@[simp] theorem Bus.enterGoodStatus_statusCompleted (b : Bus) : b.enterGoodStatus.statusCompleted = false := by
  simp [Bus.enterGoodStatus]
@[simp] theorem Bus.enterGoodStatus_messageCompleted (b : Bus) : b.enterGoodStatus.messageCompleted = false := by
  simp [Bus.enterGoodStatus]
@[simp] theorem Bus.enterGoodStatus_audioStartLBA (b : Bus) : b.enterGoodStatus.audioStartLBA = b.audioStartLBA := by
  simp [Bus.enterGoodStatus]
@[simp] theorem Bus.enterGoodStatus_audioEndLBA (b : Bus) : b.enterGoodStatus.audioEndLBA = b.audioEndLBA := by
  simp [Bus.enterGoodStatus]
@[simp] theorem Bus.enterGoodStatus_intDataTransferReady (b : Bus) : b.enterGoodStatus.intDataTransferReady = b.intDataTransferReady := by
  simp [Bus.enterGoodStatus]
@[simp] theorem Bus.enterGoodStatus_intDataTransferComplete (b : Bus) : b.enterGoodStatus.intDataTransferComplete = b.intDataTransferComplete := by
  simp [Bus.enterGoodStatus]

end Sys2Proof.Machine
end

