-- ==== Sys2Proof/Laws/Engine.lean ====
section
/-! SUPPORT. The bus engine: for each handler and each shared operation one lemma that says all it can do, and the package
of the settle loop's induction. -/

namespace Sys2Proof.Machine

/-! ## Outcomes -/

@[simp] theorem andThen_next (s : State) (k : State → Host.Outcome State Fault Refusal) : andThen (.next s) k = k s := rfl

/-- A sequence ends in a next state when both its parts do. -/
theorem andThen_eq_next {o : Host.Outcome State Fault Refusal} {k : State → Host.Outcome State Fault Refusal} {t : State} :
    andThen o k = .next t ↔ ∃ s, o = .next s ∧ k s = .next t := by
  cases o <;> simp [andThen]

/-! ## Phase entry (40_bus_fsm.md R133) -/

/-- Entering the active phase changes nothing. -/
@[simp] theorem Bus.setPhase_self (b : Bus) : b.setPhase b.phase = b := by simp [Bus.setPhase]

/-- Entering another phase writes the phase and its entry lines. -/
theorem Bus.setPhase_of_ne (b : Bus) {p : BusPhase} (h : p ≠ b.phase) :
    b.setPhase p = { b with phase := p, sig := b.sig.enter (entrySet p) } := by simp [Bus.setPhase, h]

@[simp] theorem Signals.enter_sel (g : Signals) (e : EntrySet) : (g.enter e).sel = g.sel := rfl
@[simp] theorem Signals.enter_ack (g : Signals) (e : EntrySet) : (g.enter e).ack = g.ack := rfl
@[simp] theorem Signals.enter_atn (g : Signals) (e : EntrySet) : (g.enter e).atn = g.atn := rfl
@[simp] theorem Signals.enter_rst (g : Signals) (e : EntrySet) : (g.enter e).rst = g.rst := rfl
@[simp] theorem Signals.enter_bsy (g : Signals) (e : EntrySet) : (g.enter e).bsy = e.bsy := rfl
@[simp] theorem Signals.enter_msg (g : Signals) (e : EntrySet) : (g.enter e).msg = e.msg := rfl
@[simp] theorem Signals.enter_cd (g : Signals) (e : EntrySet) : (g.enter e).cd = e.cd := rfl
@[simp] theorem Signals.enter_io (g : Signals) (e : EntrySet) : (g.enter e).io = e.io := rfl
@[simp] theorem Signals.enter_req (g : Signals) (e : EntrySet) : (g.enter e).req = e.req := rfl

/-! ## The handlers -/

/-- What the DataIn handler can do (40_bus_fsm.md R137). -/
theorem Bus.dataInHandler_cases (b : Bus) :
    (b.handshake = true ∧ b.dataInHandler = b.setReq false) ∨
    (b.handshakeIdle = true ∧ ∃ byte rest, b.dataIn = byte :: rest ∧
      b.dataInHandler = { b with dataBits := byte, dataIn := rest }.setReq true) ∨
    (b.handshakeIdle = true ∧ b.dataIn = [] ∧ b.dataInHandler = b.drain) ∨
    (b.handshake = false ∧ b.handshakeIdle = false ∧ b.dataInHandler = b) := by
  by_cases h : b.handshake = true
  · exact .inl ⟨h, by simp [Bus.dataInHandler, h]⟩
  · by_cases hi : b.handshakeIdle = true
    · cases hq : b.dataIn with
      | nil => exact .inr (.inr (.inl ⟨hi, rfl, by simp [Bus.dataInHandler, h, hi, hq]⟩))
      | cons x xs => exact .inr (.inl ⟨hi, x, xs, rfl, by simp [Bus.dataInHandler, h, hi, hq]⟩)
    · exact .inr (.inr (.inr ⟨by simpa using h, by simpa using hi, by simp [Bus.dataInHandler, h, hi]⟩))

/-- When the bytes queued before a READ are due (70_reset_and_hazards.md R347, log 32). -/
theorem State.queuedDue_iff (s : State) : s.queuedDue = true ↔
    s.params.queuedBytesFirst = true ∧ s.bus.dataReadInProgress = true ∧ s.bus.dataReadWaitTimer < s.now ∧
      s.bus.phase = .command ∧ s.bus.handshakeIdle = true ∧ s.bus.commandBuffer = [] ∧ s.bus.dataIn ≠ [] := by
  simp [State.queuedDue, and_assoc]

@[simp] theorem State.deliverQueued_fault (s : State) : s.deliverQueued.fault = s.fault := rfl
@[simp] theorem State.deliverQueued_params (s : State) : s.deliverQueued.params = s.params := rfl
@[simp] theorem State.deliverQueued_audio (s : State) : s.deliverQueued.audio = s.audio := rfl
@[simp] theorem State.deliverQueued_disc (s : State) : s.deliverQueued.disc = s.disc := rfl
@[simp] theorem State.deliverQueued_dest (s : State) : s.deliverQueued.dest = s.dest := rfl
@[simp] theorem State.deliverQueued_destLen (s : State) : s.deliverQueued.destLen = s.destLen := rfl
@[simp] theorem State.deliverQueued_now (s : State) : s.deliverQueued.now = s.now := rfl
@[simp] theorem State.deliverQueued_inputs (s : State) : s.deliverQueued.inputs = s.inputs := rfl
@[simp] theorem State.deliverQueued_replies (s : State) : s.deliverQueued.replies = s.replies := rfl
@[simp] theorem State.deliverQueued_calls (s : State) : s.deliverQueued.calls = s.calls := rfl
@[simp] theorem State.deliverQueued_freeCount (s : State) : s.deliverQueued.freeCount = s.freeCount := rfl

/-- What delivering the queued bytes can do: nothing, or enter DataIn from Command (70_reset_and_hazards.md R347). -/
theorem State.deliverQueued_cases (s : State) :
    (s.queuedDue = false ∧ s.deliverQueued = s) ∨
    (s.queuedDue = true ∧ s.deliverQueued = { s with
      bus := { s.bus with phase := .dataIn, sig := s.bus.sig.enter (entrySet .dataIn) } }) := by
  by_cases h : s.queuedDue = true
  · have hp := ((State.queuedDue_iff s).1 h).2.2.2.1
    exact .inr ⟨h, by rw [State.deliverQueued, if_pos h, Bus.setPhase_of_ne _ (by simp [hp])]⟩
  · exact .inl ⟨by simpa using h, by simp [State.deliverQueued, h]⟩

/-- With R141's reading, the default, nothing is delivered ahead of a sector. -/
theorem State.deliverQueued_of_default (s : State) (h : s.params.queuedBytesFirst = false) : s.deliverQueued = s := by
  rcases State.deliverQueued_cases s with ⟨_, e⟩ | ⟨hd, _⟩
  · exact e
  · simp [((State.queuedDue_iff s).1 hd).1] at h

/-- What the decode half of the Command handler can do (40_bus_fsm.md R136, 41_scsi_commands.md R170). -/
theorem commandDecode_cases {s t : State} (h : commandDecode s = .next t) :
    t = s.deliverQueued ∨
    (∃ e, decodeCdb s.params.opcodes s.bus.commandBuffer = .error e ∧ t = { s with bus := s.bus.setReq true }) ∨
    (∃ i u, decodeCdb s.params.opcodes s.bus.commandBuffer = .ok i ∧ exec i s = .next u ∧
      t = u.afterCommand (clearsCommandBuffer i s.params)) := by
  unfold commandDecode at h
  split at h
  · split at h
    · cases h; exact .inr (.inl ⟨_, by assumption, rfl⟩)
    · obtain ⟨u, hu, ht⟩ := andThen_eq_next.1 h
      cases ht
      exact .inr (.inr ⟨_, u, by assumption, hu, rfl⟩)
  · cases h; exact .inl rfl

/-- What the Command handler can do: raise F9, or decode, after latching a byte if REQ and ACK are up (40_bus_fsm.md R136). -/
theorem commandHandler_cases {s t : State} (h : commandHandler s = .next t) :
    (10 ≤ s.bus.commandBuffer.length ∧ t = s.raise (.cdbOverflow s.bus.commandBuffer)) ∨
    (s.bus.commandBuffer.length < 10 ∧ commandDecode { s with
      bus := { s.bus with commandBuffer := s.bus.commandBuffer ++ [s.bus.dataBits] }.setReq false } = .next t) ∨
    commandDecode s = .next t := by
  unfold commandHandler Config.cdbMax at h
  split at h
  · split at h
    · cases h; exact .inl ⟨by assumption, rfl⟩
    · exact .inr (.inl ⟨by omega, h⟩)
  · exact .inr (.inr h)

/-- What a pass can do (40_bus_fsm.md R132). -/
theorem busPass_cases {s t : State} (h : busPass s = .next t) :
    (t = { s with bus := s.bus.setPhase .command } ∧ s.bus.sig.sel = true ∧ s.bus.sig.bsy = false) ∨
    (t = { s with bus := s.bus.setPhase .messageOut } ∧ s.bus.sig.atn = true ∧ s.bus.handshakeIdle = true) ∨
    (s.bus.phase = .busFree ∧ t = s) ∨
    (s.bus.phase = .command ∧ commandHandler s = .next t) ∨
    (s.bus.phase = .dataIn ∧ t = { s with bus := s.bus.dataInHandler }) ∨
    (s.bus.phase = .dataOut ∧ t = { s with bus := s.bus.dataOutHandler }) ∨
    (s.bus.phase = .messageIn ∧ t = { s with bus := s.bus.messageInHandler }) ∨
    (s.bus.phase = .messageOut ∧ t = { s with bus := s.bus.messageOutHandler }) ∨
    (s.bus.phase = .status ∧ t = { s with bus := s.bus.statusHandler }) := by
  unfold busPass at h
  split at h
  · cases h; simp_all
  · split at h
    · cases h; simp_all
    · split at h <;> first | (cases h; simp_all) | simp_all

/-- The settle loop's induction, once: what every pass and every raise keeps, the loop keeps (40_bus_fsm.md R131). -/
theorem settle_keeps {P : State → Prop} (hpass : ∀ s t, P s → busPass s = .next t → P t)
    (hraise : ∀ s e, P s → P (s.raise e)) :
    ∀ (n : Nat) (s t : State), P s → settle n s = .next t → P t := by
  intro n
  induction n with
  | zero =>
    intro s t hs h
    simp only [settle, Host.Outcome.next.injEq] at h
    exact h ▸ hraise _ _ hs
  | succ n ih =>
    intro s t hs h
    obtain ⟨u, hu, hk⟩ := andThen_eq_next.1 h
    have hP := hpass s u hs hu
    split at hk
    · cases hk; exact hP
    · split at hk
      · cases hk; exact hP
      · exact ih u t hP hk

/-! ## Sector load and Advance -/

/-- What enqueueing an answer into an empty queue does: the bytes fit (20_memory.md R66). -/
theorem State.enqueueThen_of_fits (s : State) (bs : List Byte) (k : State → State) (hq : s.bus.dataIn = [])
    (hb : bs.length ≤ 2048) : s.enqueueThen bs k = k { s with bus := { s.bus with dataIn := bs } } := by
  simp [State.enqueueThen, Bus.enqueueAll, Config.dataInCapacity, hq, List.take_of_length_le hb, Nat.not_lt.2 hb]

/-- The answer of a command with at most 2048 bytes (41_scsi_commands.md R176, R177). -/
theorem State.answer_of_fits (s : State) (bs : List Byte) (hb : bs.length ≤ 2048) :
    s.answer bs = { s with bus := { s.bus with dataIn := bs }.setPhase .dataIn } := by
  unfold State.answer
  rw [State.enqueueThen_of_fits _ _ _ rfl hb]

/-- When a sector load is due (40_bus_fsm.md R141). -/
theorem State.loadDue_iff (s : State) : s.loadDue = true ↔
    s.bus.dataReadInProgress = true ∧ s.bus.dataReadWaitTimer < s.now ∧ s.bus.dataIn = [] := by
  simp [State.loadDue, and_assoc]

/-- What a sector load can do: nothing, raise F4, or queue a sector (40_bus_fsm.md R141). -/
theorem State.sectorLoad_cases (s : State) :
    (s.loadDue = false ∧ s.sectorLoad = s) ∨
    (s.loadDue = true ∧ (s.disc.readBlock s.bus.currentReadingSector 2048).length ≠ 2048 ∧
      s.sectorLoad = (s.called [.blockRead s.bus.currentReadingSector 2048]).raise
        (.sectorSize s.bus.currentReadingSector)) ∨
    (s.loadDue = true ∧ (s.disc.readBlock s.bus.currentReadingSector 2048).length = 2048 ∧
      s.sectorLoad = { s.called [.blockRead s.bus.currentReadingSector 2048] with
        bus := { s.bus with dataIn := s.disc.readBlock s.bus.currentReadingSector 2048 }.afterLoad
          (sectorsAfterLoad s.bus.sectorsLeftToRead s.freeCount)
        freeCount := drawsAfterLoad s.bus.sectorsLeftToRead s.freeCount }) := by
  by_cases hd : s.loadDue = true
  · by_cases hl : (s.disc.readBlock s.bus.currentReadingSector 2048).length = 2048
    · refine .inr (.inr ⟨hd, hl, ?_⟩)
      have hq := ((State.loadDue_iff s).1 hd).2.2
      simp only [State.sectorLoad, hd, Config.sectorUserBytes, hl, if_true]
      rw [State.enqueueThen_of_fits _ _ _ (by simpa using hq) (by omega)]
      rfl
    · exact .inr (.inl ⟨hd, hl, by simp [State.sectorLoad, hd, Config.sectorUserBytes, hl]⟩)
  · exact .inl ⟨by simpa using hd, by simp [State.sectorLoad, hd]⟩

/-- What an Advance can do, in the order of its tests (40_bus_fsm.md R130, 60_exceptions.md R313). -/
theorem State.advance_cases {s t : State} {now : Nat} (h : s.advance now = .next t) :
    (s.faulted = true ∧ t = s) ∨
    (s.faulted = false ∧ s.bus.sig.rst = true ∧ t = { s with now := now }.deviceReset) ∨
    (s.faulted = false ∧ s.bus.sig.rst = false ∧ { s with now := now }.sectorLoad.faulted = true ∧
      t = { s with now := now }.sectorLoad) ∨
    (s.faulted = false ∧ s.bus.sig.rst = false ∧ { s with now := now }.sectorLoad.faulted = false ∧
      settle Config.settleBound { s with now := now }.sectorLoad = .next t) := by
  unfold State.advance at h
  split at h
  · cases h; exact .inl ⟨by assumption, rfl⟩
  · have hf : s.faulted = false := by simpa using ‹¬ s.faulted = true›
    dsimp only at h
    split at h
    · cases h; exact .inr (.inl ⟨hf, by assumption, rfl⟩)
    · split at h
      · cases h; exact .inr (.inr (.inl ⟨hf, by simp_all, by assumption, rfl⟩))
      · exact .inr (.inr (.inr ⟨hf, by simp_all, by simp_all, h⟩))

/-- A step performs the host's next operation, or nothing. -/
theorem nextOperation_cases {s t : State} (h : nextOperation s = .next t) :
    (s.inputs = [] ∧ t = s) ∨
    (∃ op rest, s.inputs = op :: rest ∧ perform op { s with inputs := rest } = .next t) := by
  unfold nextOperation at h
  split at h
  · cases h; exact .inl ⟨by assumption, rfl⟩
  · exact .inr ⟨_, _, by assumption, h⟩

end Sys2Proof.Machine
end

