-- ==== Sys2Proof/Laws/Memory.lean ====
section
/-! SUPPORT. The destination buffer: every write keeps the canonical form, a byte reads back what was written, and every
other byte reads as before. Then the frame primitives on lists of bytes. -/

namespace Sys2Proof.Machine

/-! ## Cells -/

/-- A cell of bytes laid out from `a` on lies among them and is not what an unlisted address reads as. -/
theorem mem_cellsOf {a : Nat} {bs : List Byte} {c : Host.Cell} (h : c ∈ cellsOf a bs) :
    a ≤ c.1 ∧ c.1 < a + bs.length ∧ c.2 ≠ unlistedByte := by
  induction bs generalizing a with
  | nil => simp [cellsOf] at h
  | cons b bs ih =>
    unfold cellsOf at h
    split at h
    · obtain ⟨h1, h2, h3⟩ := ih h
      exact ⟨by omega, by simp only [List.length_cons]; omega, h3⟩
    · rcases List.mem_cons.1 h with rfl | h
      · exact ⟨le_refl _, by simp, by assumption⟩
      · obtain ⟨h1, h2, h3⟩ := ih h
        exact ⟨by omega, by simp only [List.length_cons]; omega, h3⟩

theorem cellsOf_wf (a : Nat) (bs : List Byte) : Memory.wf (cellsOf a bs) := by
  refine ⟨?_, fun c h => (mem_cellsOf h).2.2⟩
  induction bs generalizing a with
  | nil => simp [cellsOf]
  | cons b bs ih =>
    unfold cellsOf
    split
    · exact ih _
    · refine List.pairwise_cons.2 ⟨fun c h => ?_, ih _⟩
      have := mem_cellsOf h
      simp only; omega

/-- A write keeps the canonical form. -/
theorem Memory.writeBytes_wf {m : Memory} (h : m.wf) (a : Nat) (bs : List Byte) : (m.writeBytes a bs).wf := by
  have hc := cellsOf_wf a bs
  constructor
  · refine List.pairwise_append.2 ⟨h.1.filter _, List.pairwise_append.2 ⟨hc.1, h.1.filter _, ?_⟩, ?_⟩
    · intro c hcm d hd
      have := mem_cellsOf hcm
      simp only [List.mem_filter, decide_eq_true_eq] at hd
      omega
    · intro c hcm d hd
      simp only [List.mem_filter, decide_eq_true_eq] at hcm
      rcases List.mem_append.1 hd with hd | hd
      · have := mem_cellsOf hd; omega
      · simp only [List.mem_filter, decide_eq_true_eq] at hd; omega
  · intro c hcm
    simp only [writeBytes, List.mem_append, List.mem_filter] at hcm
    rcases hcm with hcm | hcm | hcm
    · exact h.2 c hcm.1
    · exact (mem_cellsOf hcm).2.2
    · exact h.2 c hcm.1

/-- A write lists no address outside the bytes written and those listed before. -/
theorem Memory.writeBytes_bound {m : Memory} {a n : Nat} {bs : List Byte} (h : ∀ c ∈ m, c.1 < n)
    (hb : a + bs.length ≤ n) : ∀ c ∈ m.writeBytes a bs, c.1 < n := by
  intro c hcm
  simp only [writeBytes, List.mem_append, List.mem_filter] at hcm
  rcases hcm with hcm | hcm | hcm
  · exact h c hcm.1
  · have := mem_cellsOf hcm; omega
  · exact h c hcm.1

/-! ## Reading a byte -/

/-- The lookup that `readByte` does, so that it can be taken apart along a list. -/
def Memory.lookup (m : Memory) (x : Nat) : Option Host.Cell := m.find? fun c => c.1 == x

theorem Memory.readByte_eq_lookup (m : Memory) (x : Nat) :
    m.readByte x = ((m.lookup x).map Prod.snd).getD unlistedByte := by
  unfold Memory.readByte Memory.lookup
  cases m.find? fun c => c.1 == x <;> rfl

theorem Memory.lookup_append (m n : Memory) (x : Nat) :
    Memory.lookup (m ++ n) x = (m.lookup x).or (n.lookup x) := by
  simp [Memory.lookup, List.find?_append]

theorem Memory.lookup_eq_none {m : Memory} {x : Nat} (h : ∀ c ∈ m, c.1 ≠ x) : m.lookup x = none := by
  simpa [Memory.lookup] using h

theorem Memory.lookup_filter {m : Memory} {p : Host.Cell → Bool} {x : Nat} (h : ∀ c : Host.Cell, c.1 = x → p c = true) :
    Memory.lookup (m.filter p) x = m.lookup x := by
  induction m with
  | nil => rfl
  | cons c m ih =>
    unfold Memory.lookup at *
    by_cases hx : c.1 = x
    · simp [h c hx, hx]
    · by_cases hp : p c = true <;> simp_all

theorem cellsOf_lookup (a : Nat) (bs : List Byte) (i : Nat) (hi : i < bs.length) :
    ((Memory.lookup (cellsOf a bs) (a + i)).map Prod.snd).getD unlistedByte = bs[i] := by
  induction bs generalizing a i with
  | nil => simp at hi
  | cons b bs ih =>
    cases i with
    | zero =>
      by_cases hb : b = unlistedByte
      · have : Memory.lookup (cellsOf (a + 1) bs) a = none :=
          Memory.lookup_eq_none fun c hc => by have := mem_cellsOf hc; omega
        simp [cellsOf, hb, this]
      · simp [cellsOf, hb, Memory.lookup]
    | succ i =>
      have hi' : i < bs.length := by simpa using hi
      have := ih (a + 1) i hi'
      have e : a + 1 + i = a + (i + 1) := by omega
      rw [e] at this
      by_cases hb : b = unlistedByte
      · simpa [cellsOf, hb] using this
      · have hne : ¬ a = a + (i + 1) := by omega
        simpa [cellsOf, hb, Memory.lookup, hne] using this

/-- A byte written reads back. -/
theorem Memory.readByte_writeBytes_in (m : Memory) (a : Nat) (bs : List Byte) (i : Nat) (hi : i < bs.length) :
    (m.writeBytes a bs).readByte (a + i) = bs[i] := by
  have h1 : Memory.lookup (m.filter fun c => decide (c.1 < a)) (a + i) = none :=
    Memory.lookup_eq_none fun c hc => by
      have := of_decide_eq_true (List.mem_filter.1 hc).2
      omega
  have h2 : Memory.lookup (m.filter fun c => decide (a + bs.length ≤ c.1)) (a + i) = none :=
    Memory.lookup_eq_none fun c hc => by
      have := of_decide_eq_true (List.mem_filter.1 hc).2
      omega
  rw [Memory.readByte_eq_lookup, Memory.writeBytes, Memory.lookup_append, Memory.lookup_append, h1, h2]
  simpa using cellsOf_lookup a bs i hi

/-- A byte outside those written reads as before. -/
theorem Memory.readByte_writeBytes_out (m : Memory) (a : Nat) (bs : List Byte) (x : Nat)
    (hx : x < a ∨ a + bs.length ≤ x) : (m.writeBytes a bs).readByte x = m.readByte x := by
  have hc : Memory.lookup (cellsOf a bs) x = none :=
    Memory.lookup_eq_none fun c hcm => by have := mem_cellsOf hcm; omega
  rw [Memory.readByte_eq_lookup, Memory.readByte_eq_lookup, Memory.writeBytes, Memory.lookup_append,
    Memory.lookup_append, hc]
  rcases hx with hx | hx
  · have hr : Memory.lookup (m.filter fun c => decide (a + bs.length ≤ c.1)) x = none :=
      Memory.lookup_eq_none fun c hcm => by
        have := of_decide_eq_true (List.mem_filter.1 hcm).2
        omega
    rw [hr, Memory.lookup_filter fun c e => decide_eq_true (by omega)]
    simp
  · have hl : Memory.lookup (m.filter fun c => decide (c.1 < a)) x = none :=
      Memory.lookup_eq_none fun c hcm => by
        have := of_decide_eq_true (List.mem_filter.1 hcm).2
        omega
    rw [hl, Memory.lookup_filter fun c e => decide_eq_true (by omega)]
    simp

@[simp] theorem Memory.readBytes_length (m : Memory) (a n : Nat) : (m.readBytes a n).length = n := by
  simp [Memory.readBytes]

@[simp] theorem Memory.readBytes_getElem (m : Memory) (a n i : Nat) (hi : i < (m.readBytes a n).length) :
    (m.readBytes a n)[i] = m.readByte (a + i) := by
  simp [Memory.readBytes]

/-- A block written reads back whole. -/
theorem Memory.readBytes_writeBytes (m : Memory) (a : Nat) (bs : List Byte) :
    (m.writeBytes a bs).readBytes a bs.length = bs := by
  refine List.ext_getElem (by simp) fun i h1 h2 => ?_
  rw [Memory.readBytes_getElem, Memory.readByte_writeBytes_in _ _ _ _ h2]

/-! ## Frame primitives (20_memory.md R67) -/

/-- A write inside a frame keeps its length. -/
theorem memWrite_length {f : List Byte} {k : Nat} {v : List Byte} (h : k + v.length ≤ f.length) :
    (memWrite f k v).length = f.length := by
  simp [memWrite]; omega

/-- A byte outside those written is as before. -/
theorem memWrite_out {f : List Byte} {k i : Nat} {v : List Byte} (h : k + v.length ≤ f.length)
    (hi : i < k ∨ k + v.length ≤ i) : (memWrite f k v)[i]? = f[i]? := by
  unfold memWrite
  rcases hi with hi | hi
  · rw [List.getElem?_append_left (by simp; omega), List.getElem?_take_of_lt hi]
  · rw [List.getElem?_append_right (by simp; omega), List.getElem?_append_right (by simp; omega)]
    simp only [List.length_take, List.getElem?_drop]
    congr 1
    omega

/-- A byte written is the value's byte. -/
theorem memWrite_in {f : List Byte} {k i : Nat} {v : List Byte} (h : k + v.length ≤ f.length) (hi : i < v.length) :
    (memWrite f k v)[k + i]? = v[i]? := by
  unfold memWrite
  have hk : (f.take k).length = k := by rw [List.length_take]; omega
  rw [List.getElem?_append_right (by omega), List.getElem?_append_left (by omega), hk, Nat.add_sub_cancel_left]

theorem memRead_length {f : List Byte} {k n : Nat} (h : k + n ≤ f.length) : (memRead f k n).length = n := by
  simp [memRead]; omega

theorem memRead_getElem? {f : List Byte} {k n i : Nat} (hi : i < n) : (memRead f k n)[i]? = f[k + i]? := by
  simp [memRead, List.getElem?_take_of_lt hi]

/-- What was written is read. -/
theorem memRead_memWrite {f : List Byte} {k : Nat} {v : List Byte} (h : k + v.length ≤ f.length) :
    memRead (memWrite f k v) k v.length = v := by
  refine List.ext_getElem? fun i => ?_
  by_cases hi : i < v.length
  · rw [memRead_getElem? hi, memWrite_in h hi]
  · have hl : (memRead (memWrite f k v) k v.length).length ≤ i := by
      simp only [memRead, List.length_take]; omega
    rw [List.getElem?_eq_none hl, List.getElem?_eq_none (by omega)]

end Sys2Proof.Machine
end

