-- ==== Sys2Proof/Laws/PerInstr.lean ====
section
/-! SUPPORT. A statement about every instruction as syntax, proved per constructor: the encoded form of an instruction is
as long as its first byte says (30_encoding.md R91), and a job carries one of the four tags (30_encoding.md R115). -/

namespace Sys2Proof.Laws.EncodedForm

/-- A CDB that an instruction encodes to has the length its first byte implies; a job's tag is below 4. -/
def Statement (i : Instr) : Prop :=
  ∀ o : Opcodes, o.distinct → i.wellFormed o = true →
    match encode o i with
    | .cdb bytes => bytes.length = cdbLength o (cdbByte bytes 0)
    | .job d => d.variant < variantTags

theorem testUnitReady : Statement .testUnitReady := fun o _ _ =>
  (cdbLength_of_sixByte (op := o.testUnitReady) (by simp [Opcodes.sixByte])).symm

theorem read (lba : BitVec 21) (count : Byte) : Statement (.read lba count) := fun o _ _ =>
  (cdbLength_of_sixByte (op := o.read) (by simp [Opcodes.sixByte])).symm

theorem audioStartPos (control : Byte) (addr : AudioAddr) : Statement (.audioStartPos control addr) := fun o hd _ => by
  have h := cdbLength_of_tenByte hd (op := o.audioStartPos) (by simp [Opcodes.tenByte])
  cases addr <;> exact h.symm

theorem audioEndPos (control : Byte) (addr : AudioAddr) : Statement (.audioEndPos control addr) := fun o hd _ => by
  have h := cdbLength_of_tenByte hd (op := o.audioEndPos) (by simp [Opcodes.tenByte])
  cases addr <;> exact h.symm

theorem pause : Statement .pause := fun o hd _ =>
  (cdbLength_of_tenByte hd (op := o.pause) (by simp [Opcodes.tenByte])).symm

theorem readSubcodeQ : Statement .readSubcodeQ := fun o hd _ =>
  (cdbLength_of_tenByte hd (op := o.readSubcodeQ) (by simp [Opcodes.tenByte])).symm

theorem readToc (req : TocRequest) : Statement (.readToc req) := fun o hd _ =>
  (cdbLength_of_tenByte hd (op := o.readToc) (by simp [Opcodes.tenByte])).symm

theorem unrecognized (opcode : Byte) : Statement (.unrecognized opcode) := fun _ _ h =>
  (cdbLength_of_unassigned (op := opcode) (by simpa [Instr.wellFormed] using h)).symm

theorem synthMode1_2048 (job : SynthJob) : Statement (.synthMode1_2048 job) := fun _ _ _ => by
  simp [encode, variantTags]
theorem synthGap_2048 (job : SynthJob) : Statement (.synthGap_2048 job) := fun _ _ _ => by
  simp [encode, variantTags]
theorem synthRaw_2352 (job : SynthJob) : Statement (.synthRaw_2352 job) := fun _ _ _ => by
  simp [encode, variantTags]
theorem synthGap_2352 (job : SynthJob) : Statement (.synthGap_2352 job) := fun _ _ _ => by
  simp [encode, variantTags]

end Sys2Proof.Laws.EncodedForm
end

