-- ==== Sys2Proof/Laws/Synth.lean ====
section
/-! SUPPORT. The synthesizer: what a job can do, what it leaves alone, and that every step on a frame keeps its length. -/

namespace Sys2Proof.Machine

/-! ## A job -/

/-- What a job can do: nothing while a fault is recorded, raise a fault of its checks, raise F4, or write its frame
(43_sector_synth.md R250, R251). -/
theorem State.synth_cases (s : State) (variant : Nat) (job : SynthJob) (c : MainChannel)
    (main : Option (List Byte) → List Byte → List Byte) :
    (s.faulted = true ∧ s.synth variant job c main = s) ∨
    (s.faulted = false ∧ ∃ e, synthValidate variant job s.destLen = .error e ∧
      s.synth variant job c main = s.raise e) ∨
    (s.faulted = false ∧ synthValidate variant job s.destLen = .ok () ∧ ∃ e, c.fetch s.disc job.lba = .error e ∧
      s.synth variant job c main = (s.called (c.calls job.lba)).raise e) ∨
    (s.faulted = false ∧ synthValidate variant job s.destLen = .ok () ∧ ∃ bytes, c.fetch s.disc job.lba = .ok bytes ∧
      s.synth variant job c main = { s.called (c.calls job.lba) with
        dest := s.dest.writeBytes job.off (subcode job (main bytes (s.dest.readBytes job.off 2448))) }) := by
  cases hf : s.faulted with
  | true => exact .inl ⟨rfl, by simp [State.synth, hf]⟩
  | false =>
    cases hv : synthValidate variant job s.destLen with
    | error e => exact .inr (.inl ⟨rfl, e, rfl, by simp [State.synth, hf, hv]⟩)
    | ok u =>
      cases hb : c.fetch s.disc job.lba with
      | error e => exact .inr (.inr (.inl ⟨rfl, rfl, e, rfl, by simp [State.synth, hf, hv, hb]⟩))
      | ok bytes =>
        exact .inr (.inr (.inr ⟨rfl, rfl, bytes, rfl, by simp [State.synth, hf, hv, hb, Config.frameBytes]⟩))

/-- A job whose checks pass has a frame inside the destination (20_memory.md R64). -/
theorem synthValidate_ok_bounds {variant : Nat} {job : SynthJob} {n : Nat} (h : synthValidate variant job n = .ok ()) :
    job.off + 2448 ≤ n := by
  unfold synthValidate Config.frameBytes at h
  split at h
  · cases h
  · omega

/-- The bytes a source answers are as many as were asked for. -/
theorem MainChannel.fetch_length {c : MainChannel} {disc : Disc} {lba : Int} {bs : List Byte}
    (h : c.fetch disc lba = .ok (some bs)) : bs.length = c.length := by
  unfold MainChannel.fetch at h
  split at h
  · split at h
    · cases h; simp
    · split at h
      · cases h; assumption
      · cases h
  · cases h

/-! ## What a job leaves alone (43_sector_synth.md R250, 70_reset_and_hazards.md R351) -/

section
variable (s : State) (variant : Nat) (job : SynthJob) (c : MainChannel) (main : Option (List Byte) → List Byte → List Byte)

@[simp] theorem State.synth_bus : (s.synth variant job c main).bus = s.bus := by
  rcases s.synth_cases variant job c main with ⟨_, h⟩ | ⟨_, e, _, h⟩ | ⟨_, _, e, _, h⟩ | ⟨_, _, b, _, h⟩ <;> simp [h]
@[simp] theorem State.synth_params : (s.synth variant job c main).params = s.params := by
  rcases s.synth_cases variant job c main with ⟨_, h⟩ | ⟨_, e, _, h⟩ | ⟨_, _, e, _, h⟩ | ⟨_, _, b, _, h⟩ <;> simp [h]
@[simp] theorem State.synth_audio : (s.synth variant job c main).audio = s.audio := by
  rcases s.synth_cases variant job c main with ⟨_, h⟩ | ⟨_, e, _, h⟩ | ⟨_, _, e, _, h⟩ | ⟨_, _, b, _, h⟩ <;> simp [h]
@[simp] theorem State.synth_disc : (s.synth variant job c main).disc = s.disc := by
  rcases s.synth_cases variant job c main with ⟨_, h⟩ | ⟨_, e, _, h⟩ | ⟨_, _, e, _, h⟩ | ⟨_, _, b, _, h⟩ <;> simp [h]
@[simp] theorem State.synth_destLen : (s.synth variant job c main).destLen = s.destLen := by
  rcases s.synth_cases variant job c main with ⟨_, h⟩ | ⟨_, e, _, h⟩ | ⟨_, _, e, _, h⟩ | ⟨_, _, b, _, h⟩ <;> simp [h]
@[simp] theorem State.synth_now : (s.synth variant job c main).now = s.now := by
  rcases s.synth_cases variant job c main with ⟨_, h⟩ | ⟨_, e, _, h⟩ | ⟨_, _, e, _, h⟩ | ⟨_, _, b, _, h⟩ <;> simp [h]
@[simp] theorem State.synth_inputs : (s.synth variant job c main).inputs = s.inputs := by
  rcases s.synth_cases variant job c main with ⟨_, h⟩ | ⟨_, e, _, h⟩ | ⟨_, _, e, _, h⟩ | ⟨_, _, b, _, h⟩ <;> simp [h]
@[simp] theorem State.synth_replies : (s.synth variant job c main).replies = s.replies := by
  rcases s.synth_cases variant job c main with ⟨_, h⟩ | ⟨_, e, _, h⟩ | ⟨_, _, e, _, h⟩ | ⟨_, _, b, _, h⟩ <;> simp [h]
@[simp] theorem State.synth_freeCount : (s.synth variant job c main).freeCount = s.freeCount := by
  rcases s.synth_cases variant job c main with ⟨_, h⟩ | ⟨_, e, _, h⟩ | ⟨_, _, e, _, h⟩ | ⟨_, _, b, _, h⟩ <;> simp [h]

end

/-! ## Frame lengths -/

theorem header2048_length {job : SynthJob} {f : List Byte} (h : f.length = 2448) : (header2048 job f).length = 2448 := by
  unfold header2048
  split
  · split
    · exact h
    · rw [memWrite_length, memWrite_length] <;> simp [syncPattern, h]
      rw [memWrite_length] <;> simp [h]
  · exact h

theorem ecm2048_length {lsbFirst : Bool} {job : SynthJob} {f : List Byte} (h : f.length = 2448) :
    (ecm2048 lsbFirst job f).length = 2448 := by
  unfold ecm2048
  split
  · have h1 : (memWrite f 2064 (edcBytes lsbFirst (edc (memRead f 0 2064)))).length = 2448 := by
      rw [memWrite_length] <;> simp [h]
    have h2 := memWrite_length (f := memWrite f 2064 (edcBytes lsbFirst (edc (memRead f 0 2064)))) (k := 2068)
      (v := List.replicate 8 0x00) (by simp [h1])
    unfold eccQ eccP
    rw [eccBlock_length, eccBlock_length, h2, h1] <;> first | (rw [eccBlock_length] <;> omega) | omega
  · exact h

theorem main2048_length {lsbFirst : Bool} {job : SynthJob} {user : Option (List Byte)} {f : List Byte}
    (h : f.length = 2448) (hu : ∀ u, user = some u → u.length = 2048) : (main2048 lsbFirst job user f).length = 2448 := by
  unfold main2048
  refine ecm2048_length (header2048_length ?_)
  cases user with
  | none => exact h
  | some u => rw [memWrite_length] <;> simp [h, hu u rfl]

theorem main2352_length {raw : Option (List Byte)} {f : List Byte}
    (h : f.length = 2448) (hr : ∀ r, raw = some r → r.length = 2352) : (main2352 raw f).length = 2448 := by
  cases raw with
  | none => exact h
  | some r => simp only [main2352]; rw [memWrite_length] <;> simp [h, hr r rfl]

theorem subcodeP_length {job : SynthJob} {f : List Byte} (h : f.length = 2448) : (subcodeP job f).length = 2448 := by
  unfold subcodeP
  split
  · rw [memWrite_length] <;> simp [h]
  · exact h

theorem subcodeQ_length {job : SynthJob} {f : List Byte} (h : f.length = 2448) : (subcodeQ job f).length = 2448 := by
  unfold subcodeQ
  split
  · rw [memWrite_length] <;> simp [h]
  · exact h

theorem subcodeRW_length {job : SynthJob} {f : List Byte} (h : f.length = 2448) : (subcodeRW job f).length = 2448 := by
  unfold subcodeRW
  split
  · rw [memWrite_length] <;> simp [h]
  · exact h

theorem subcodeInterleave_length {job : SynthJob} {f : List Byte} (h : f.length = 2448) :
    (subcodeInterleave job f).length = 2448 := by
  unfold subcodeInterleave
  split
  · exact h
  · rw [memWrite_length] <;> simp [h]

/-- The subcode step keeps the frame's length (43_sector_synth.md R259 to R262). -/
theorem subcode_length {job : SynthJob} {f : List Byte} (h : f.length = 2448) : (subcode job f).length = 2448 := by
  unfold subcode
  split
  · exact subcodeInterleave_length (subcodeRW_length (subcodeQ_length (subcodeP_length h)))
  · exact h

end Sys2Proof.Machine
end

