-- ==== Sys2Proof/Tests/Slice0.lean ====
section
/-! SUPPORT. The model's own tests: the smoke test of WellFormed, words written out from 30_encoding.md and their decoding,
at most two small tests per instruction with results from 95_test_vectors.md or worked out from the rules by hand, and for
every statement with hypotheses a witness that meets them. -/

namespace Sys2Proof.Tests
open Machine Claims

/-! ## Helpers -/

/-- The default opcode bytes. -/
abbrev std : Opcodes := Opcodes.defaults

/-- The lines by name: BSY, SEL, CD, IO, MSG, REQ, ACK, ATN, RST, those listed being asserted. -/
def up (ls : List Line) : Signals := ls.foldl (fun g l => g.set l true) Signals.allLow

/-- The device in a phase with the listed lines asserted. -/
def bus (p : BusPhase) (ls : List Line) : Bus := { Bus.powerOn with phase := p, sig := up ls }

/-- The machine with that device. -/
def dev (b : Bus) : State := { State.reset with bus := b }

/-- The machine with an `Advance` next. -/
def tick (now : Nat) (b : Bus) : State := { dev b with inputs := [.advance now] }

/-- The device after a received CDB, REQ and ACK low (95_test_vectors.md P1). -/
def cdbIn (cdb : List Byte) : Bus := { bus .command [.bsy, .cd] with commandBuffer := cdb }

/-- The state of a `next` outcome. -/
def next? (o : Answer) : Option State :=
  match o with
  | .next s => some s
  | .fault _ => none
  | .refused _ => none

/-- One field of the next state. -/
def after {α : Type} (o : Answer) (f : State → α) : Option α := (next? o).map f

/-- The test disc of 95_test_vectors.md section 0, its table of contents. -/
def toc10 : Toc := ⟨(List.range 10).map fun (k : Nat) => ⟨(k : Int) * 1000, !(k == 0)⟩, 276120⟩

/-- A disc with that table, the Q record of section 0 for the sectors used here, and the listed block answers. -/
def disc10 (blocks : List BlockAnswer) : Disc :=
  let q : SubchannelQ := ⟨0x01, 0x02, 0x01, 0x00, 0x00, 0x00, 0x02, 0x00, 0x00⟩
  ⟨toc10, blocks, [⟨0, q⟩, ⟨8850, q⟩]⟩

/-- The machine with the test disc. -/
def withDisc (s : State) : State := { s with disc := disc10 [] }

/-- A job at LBA 0 in mode 1. -/
def job (parts : Nat) : SynthJob := ⟨0, 1, parts, 0, false, ⟨0, 0, 0, 0, 0, 0, 0, 0, 0⟩⟩

/-! ## WellFormed refuses an ill-formed term of each check -/

theorem test_wf_part_bits : (Instr.synthMode1_2048 (job 0x80)).wellFormed std = false := by decide
theorem test_wf_mode : (Instr.synthRaw_2352 { job 0 with mode := 3 }).wellFormed std = false := by decide
theorem test_wf_ecm_mode_two : (Instr.synthGap_2048 { job 4 with mode := 2 }).wellFormed std = false := by decide
theorem test_wf_toc_other : (Instr.readToc (.other 2)).wellFormed std = false := by decide
theorem test_wf_unrecognized : (Instr.unrecognized opcodePause).wellFormed std = false := by decide
theorem test_wf_gap2352 : (Instr.synthGap_2352 { job 0x80 with mode := 0 }).wellFormed std = false := by decide
theorem test_wf_accepts_ecm_raw_mode_two : (Instr.synthRaw_2352 { job 0x7F with mode := 2 }).wellFormed std = true := by decide

/-! ## Words written out from 30_encoding.md R92 to R99, R104, R115 -/

theorem test_decode_testUnitReady : decodeCdb std [0x00, 0xFF, 0x00, 0x00, 0x00, 0x01] = .ok .testUnitReady := by decide
/-- Byte 1 = 0b111_10101: bits 4:0 are LBA bits 20:16 and bits 7:5 are ignored (R93). -/
theorem test_decode_read : decodeCdb std [0x08, 0xF5, 0x12, 0x34, 0x00, 0xFF] = .ok (.read 0x151234 0x00) := by decide
/-- Byte 9 = 0b00_111111: type LBA, bits 5:0 ignored (R95). -/
theorem test_decode_audioStartPos_lba : decodeCdb std [0xD8, 0x00, 0xEE, 0x01, 0x02, 0x03, 0xEE, 0xEE, 0xEE, 0x3F] =
    .ok (.audioStartPos 0x00 (.lba 0x010203)) := by decide
theorem test_decode_audioStartPos_track : decodeCdb std [0xD8, 0x01, 0x03, 0x00, 0x00, 0x00, 0x00, 0x00, 0x00, 0x80] =
    .ok (.audioStartPos 0x01 (.track 0x03)) := by decide
theorem test_decode_audioEndPos_msf : decodeCdb std [0xD9, 0x03, 0x61, 0x23, 0x45, 0x00, 0x00, 0x00, 0x00, 0x40] =
    .ok (.audioEndPos 0x03 (.msf 0x61 0x23 0x45)) := by decide
theorem test_decode_audioEndPos_reserved : decodeCdb std [0xD9, 0x04, 0x00, 0x00, 0x00, 0x00, 0x00, 0x00, 0x00, 0xC0] =
    .ok (.audioEndPos 0x04 .reserved) := by decide
theorem test_decode_pause : decodeCdb std [0xDA, 0xFF, 0xFF, 0xFF, 0xFF, 0xFF, 0xFF, 0xFF, 0xFF, 0xFF] = .ok .pause := by decide
theorem test_decode_readSubcodeQ :
    decodeCdb std [0xDD, 0x00, 0x00, 0x00, 0x00, 0x00, 0x00, 0x00, 0x00, 0x00] = .ok .readSubcodeQ := by decide
theorem test_decode_readToc_length :
    decodeCdb std [0xDE, 0x01, 0x00, 0x00, 0x00, 0x00, 0x00, 0x00, 0x00, 0x00] = .ok (.readToc .discLength) := by decide
theorem test_decode_readToc_other :
    decodeCdb std [0xDE, 0x03, 0x00, 0x00, 0x00, 0x00, 0x00, 0x00, 0x00, 0x00] = .ok (.readToc (.other 0x03)) := by decide
theorem test_decode_unrecognized : decodeCdb std [0xFF] = .ok (.unrecognized 0xFF) := by decide
theorem test_decode_needs_ten : decodeCdb std [0xDA, 0x00, 0x00] = .error (.needMoreData 3 10) := by decide
/-- Another READ opcode: its byte is a READ and the default one is not (30_encoding.md R99). -/
theorem test_decode_other_opcode : decodeCdb { std with read := 0x28 } [0x28, 0, 0, 0x10, 2, 0] = .ok (.read 0x10 2) ∧
    decodeCdb { std with read := 0x28 } [0x08] = .ok (.unrecognized 0x08) := by decide
theorem test_decode_no_byte : decodeCdb std [] = .error .emptyCdb := by decide
theorem test_decode_synthMode1_2048 : decode std (.job ⟨0, job 1⟩) = .ok (.synthMode1_2048 (job 1)) := by decide
theorem test_decode_synthGap_2048 : decode std (.job ⟨1, job 1⟩) = .ok (.synthGap_2048 (job 1)) := by decide
theorem test_decode_synthRaw_2352 : decode std (.job ⟨2, job 1⟩) = .ok (.synthRaw_2352 (job 1)) := by decide
theorem test_decode_synthGap_2352 : decode std (.job ⟨3, job 1⟩) = .ok (.synthGap_2352 (job 1)) := by decide
theorem test_decode_unknown_tag : decode std (.job ⟨4, job 1⟩) = .error (.unknownVariant 4) := by decide
/-- The bits of READ 0x000010, 2 as spec/opcode_table.json numbers them: byte 0 lowest. -/
theorem test_table_word_read : decodeTableWord 48 0x000210000008 = some (.read 0x000010 0x02) := by decide
theorem test_table_word_opcode_only : decodeTableWord 8 0xDE = some (.readToc .trackCount) := by decide

/-! ## The commands -/

/-- P1: the Advance that decodes the sixth byte ends in Status with GOOD. -/
theorem test_testUnitReady_status : after (step (tick 1 (cdbIn [0, 0, 0, 0, 0, 0])))
    (fun t => (t.bus.phase, t.bus.dataBits, t.bus.sig.req, t.bus.commandBuffer)) = some (.status, 0x00, true, []) := by decide
/-- 41_scsi_commands.md R172, Example: cursor 16, count 2; the phase stays Command with REQ low. -/
theorem test_read_example : after (step (tick 1000 (cdbIn [0x08, 0, 0, 0x10, 0x02, 0])))
    (fun t => (t.bus.currentReadingSector, t.bus.sectorsLeftToRead, t.bus.phase, t.bus.sig.req)) =
      some (16, 2, .command, false) := by decide
/-- W3: count byte 0x00 reads 256 sectors. -/
theorem test_read_count_zero : after (exec (.read 0 0) (dev Bus.powerOn)) (fun t => (t.bus.sectorsLeftToRead, t.calls)) =
    some (256, [.audioStop]) := by decide
/-- W6, both halves. -/
theorem test_audioStartPos_plays : after (exec (.audioStartPos 1 (.msf 0x02 0x00 0x00)) (dev Bus.powerOn))
    (fun t => (t.bus.audioStartLBA, t.calls)) = some (8850, [.audioPlayFrom 8850]) := by decide
theorem test_audioStartPos_pauses : after (exec (.audioStartPos 0 (.msf 0x02 0x00 0x00)) (dev Bus.powerOn))
    (fun t => (t.audio.mode, t.calls)) = some (.paused, [.audioPlayFrom 8850, .audioPause]) := by decide
/-- 41_scsi_commands.md R174, Example: LBA 0x004C2C = 19500. -/
theorem test_audioEndPos_example : after (exec (.audioEndPos 3 (.lba 0x004C2C)) (dev { Bus.powerOn with audioStartLBA := 8850 }))
    (fun t => (t.bus.audioEndLBA, t.audio)) = some (19500, ⟨.playing, 8850, 19500, .stopOnCompletion⟩) := by decide
theorem test_audioEndPos_unknown_mode : after (exec (.audioEndPos 4 .reserved) (dev Bus.powerOn))
    (fun t => (t.bus.phase, t.calls)) = some (.status, []) := by decide
theorem test_pause_calls : after (exec .pause (dev Bus.powerOn)) (fun t => (t.bus.phase, t.calls)) =
    some (.status, [.audioPause]) := by decide
/-- 41_scsi_commands.md R176, Example. -/
theorem test_readSubcodeQ_example : after (exec .readSubcodeQ
    { withDisc (dev (cdbIn [])) with audio := ⟨.playing, 8850, 0, .stopOnCompletion⟩ }) (fun t => (t.bus.dataIn, t.bus.phase)) =
      some ([0x00, 0x01, 0x02, 0x01, 0x00, 0x00, 0x00, 0x02, 0x00, 0x00], .dataIn) := by decide
/-- W5: the disc length 61:23:45. -/
theorem test_readToc_length : after (exec (.readToc .discLength) (withDisc (dev (cdbIn [])))) (fun t => t.bus.dataIn) =
    some [0x61, 0x23, 0x45] := by decide
/-- 41_scsi_commands.md R177, Example: track 1 is data at LBA 0. -/
theorem test_readToc_track_one : after (exec (.readToc (.trackStart 0x01)) (withDisc (dev (cdbIn []))))
    (fun t => (t.bus.dataIn, t.calls)) =
      some ([0x00, 0x02, 0x00, 0x04], [.tocTrackCount, .tocTrackStart 1, .tocIsAudio 1]) := by decide
/-- 41_scsi_commands.md R178, Example: 0x12 executes on its first byte. -/
theorem test_unrecognized_status : after (step (tick 1 (cdbIn [0x12]))) (fun t => (t.bus.phase, t.bus.commandBuffer)) =
    some (.status, []) := by decide
/-- The fetch word of the host's question: the next step runs it. -/
theorem test_fetch_word_pause : after (step (State.reset.withFetchWord 8 0xDA)) (fun t => (t.bus.phase, t.calls)) =
    some (.status, [.audioPause]) := by decide

/-! ## The synthesizer and the codecs -/

/-- V-SYN-2, V-SYN-5: the header of LBA 16 in mode 1, and of LBA 0 in mode 2. -/
theorem test_header_lba16 : (header2048 { job 2 with lba := 16 } (List.replicate 16 0)).drop 11 =
    [0x00, 0x00, 0x02, 0x16, 0x01] := by decide
theorem test_header_mode2 : header2048 { job 2 with mode := 2 } (List.replicate 16 0) =
    [0x00, 0xFF, 0xFF, 0xFF, 0xFF, 0xFF, 0xFF, 0xFF, 0xFF, 0xFF, 0xFF, 0x00, 0x00, 0x02, 0x00, 0x02] := by decide
/-- V-ECC-1: frame byte 2077 is 0xF7 for the header 00 02 00 01 with zero user data; its column has no EDC byte. -/
theorem test_ecc_p_column_one : (eccParity [0x00, 0x02, 0x00, 0x01] 86 24 2 86 1).1 = 0xF7 := by decide +kernel
/-- V-SYN-16 by V-SUB-0b: P all ones with the other channels zero interleaves to bytes 0x80. -/
theorem test_interleave_p : (interleave (List.replicate 12 0xFF)).take 9 = List.replicate 9 0x80 := by decide +kernel
/-- V-SYN-6, V-SYN-17, V-SYN-18, V-SYN-19: refused jobs. -/
theorem test_synthMode1_refuses_mode2_ecm :
    after (exec (.synthMode1_2048 { job 7 with mode := 2 }) (dev Bus.powerOn)) (fun t => (t.fault, t.dest)) =
      some (some (.jobRefused (.mode 2)), []) := by decide
theorem test_synthGap_2048_frame_bounds :
    after (exec (.synthGap_2048 { job 7 with off := 1 }) (dev Bus.powerOn)) (fun t => t.fault) =
      some (some (.frameBounds 1)) := by decide
theorem test_synth_unknown_tag : after (step { dev Bus.powerOn with inputs := [.synth ⟨4, job 1⟩] }) (fun t => t.fault) =
    some (some (.jobRefused (.variant 4))) := by decide
/-- V-SYN-20 for the raw variant: an answer of another length. -/
theorem test_synthRaw_short_answer : after (exec (.synthRaw_2352 (job 1))
    { dev Bus.powerOn with disc := disc10 [⟨0, 2352, [0x00]⟩] }) (fun t => (t.fault, t.dest)) =
      some (some (.sectorSize 0), []) := by decide
/-- V-SYN-15: parts P and DI with the pause flag write 0xFF at 2352..2363 only. -/
theorem test_synthGap_2352_p_only : (subcode { job 0x48 with pause := true } (List.replicate 2368 0)).drop 2350 =
    [0x00, 0x00] ++ List.replicate 12 0xFF ++ List.replicate 4 0x00 := by decide +kernel

/-! ## Witnesses: a state and operands that meet the hypotheses of each statement -/

theorem wit_DecodeOfEncodeIsIdentity : std.distinct ∧ (Instr.read 0x1FFFFF 0).wellFormed std = true ∧
    (Instr.readToc (.other 3)).wellFormed std = true ∧ (Instr.synthMode1_2048 (job 0x7F)).wellFormed std = true ∧
    encode std .pause = .cdb (opcodePause :: List.replicate 9 0) ∧ decodeCdb std [0x12] = .ok (.unrecognized 0x12) := by decide

theorem wit_SpecWordsDecode : std.distinct ∧ 3 < 4 ∧ 4 ≤ 4 := by decide

theorem wit_AudioFieldsOfCdb : std.distinct ∧ (0x3F : Byte) &&& 0xC0 = 0x00 ∧ (0x40 : Byte) &&& 0xC0 = 0x40 ∧
    (0xBF : Byte) &&& 0xC0 = 0x80 ∧ (0xFF : Byte) &&& 0xC0 = 0xC0 := by decide

/-- One byte short and just long enough for each length, and an opcode of no row. -/
theorem wit_CdbLengthFromFirstByte : [0, 0, 0, 0].length + 1 < 6 ∧ 6 ≤ [0, 0, 0, 0, 0].length + 1 ∧
    (List.replicate 8 0).length + 1 < 10 ∧ 10 ≤ (List.replicate 9 0).length + 1 ∧
    (0x12 : Byte) ∉ [std.testUnitReady, std.read, std.audioStartPos, std.audioEndPos, std.pause, std.readSubcodeQ,
      std.readToc] := by decide

theorem wit_ReadStartsMultiSectorRead : std.distinct := by decide

/-- Each clause at bytes that differ in every ignored bit: 0x1F and 0xFF in byte 1 of READ, each address type of byte 9. -/
theorem wit_IgnoredBitsHaveNoEffect : (0x1F : Byte) &&& 0x1F = 0xFF &&& 0x1F ∧ (0x00 : Byte) &&& 0xC0 = 0x3F &&& 0xC0 ∧
    (0x40 : Byte) &&& 0xC0 = 0x7F &&& 0xC0 ∧ (0x80 : Byte) &&& 0xC0 = 0xBF &&& 0xC0 ∧ (0xC0 : Byte) &&& 0xC0 = 0xFF &&& 0xC0 ∧
    std.distinct ∧ (std.audioEndPos = std.audioStartPos ∨ std.audioEndPos = std.audioEndPos) ∧
    (0x12 : Byte) ∉ std.assigned := by decide

/-- A complete command, one that faults, and one that changes nothing but the read fields; and a job. -/
theorem wit_StepRunsDecodedInstruction :
    let s := tick 1 (cdbIn [0, 0, 0, 0, 0, 0])
    let u : State := { dev Bus.powerOn with inputs := [.synth ⟨3, job 0⟩] }
    (advances s 1 [] ∧ s.bus.phase = .command ∧ ¬ selecting s.bus ∧ bothLow s.bus ∧ s.bus.sig.atn = false ∧
      decodeCdb s.params.opcodes s.bus.commandBuffer = .ok .testUnitReady) ∧
    u.inputs = [.synth ⟨3, job 0⟩] ∧ decodeJob ⟨3, job 0⟩ = .ok (.synthGap_2352 (job 0)) := by decide

theorem wit_AudioStartPosCompletes : audioAddress toc10 0 (.lba 0xFFFFFF) = .ok 0xFFFFFF ∧
    audioAddress toc10 0 (.msf 0x00 0x00 0x00) = .ok (-150) ∧ audioAddress toc10 0 (.track 0x00) = .ok 0 ∧
    audioAddress toc10 0 (.msf 0x00 0x00 0x0A) = .error (.badBcd 0x0A) ∧ (dev Bus.powerOn).fault = none := by decide

theorem wit_AudioEndPosCompletes : audioAddress toc10 7 .reserved = .ok 7 ∧
    audioAddress toc10 7 (.msf 0x99 0x99 0x99) = .ok 452874 ∧ audioAddress toc10 7 (.track 0x11) = .ok 276120 ∧
    audioAddress toc10 7 (.track 0xA0) = .error (.badBcd 0xA0) ∧ (dev Bus.powerOn).fault = none := by decide

/-- Every clause at its boundary: 99 and 100 tracks, the last and the first LBA with a time and their neighbours, the last
track and the one after it. -/
theorem wit_ReadTocAnswersOrFaults :
    (dev Bus.powerOn).fault = none ∧
    (List.replicate 99 (⟨0, true⟩ : TocTrack)).length ≤ 99 ∧ 99 < (List.replicate 100 (⟨0, true⟩ : TocTrack)).length ∧
    hasTime 449849 ∧ hasTime (-150) ∧ ¬ hasTime 449850 ∧ ¬ hasTime (-151) ∧
    ¬ validBcd 0x9A ∧ ¬ validBcd 0xA0 ∧ validBcd 0x99 ∧ validBcd 0x00 ∧
    beyond toc10 11 ∧ isTrack toc10 10 ⟨9000, true⟩ ∧ isTrack toc10 0 ⟨0, false⟩ ∧
    (beyond ⟨[], 449850⟩ 0 ∧ ¬ hasTime 449850) ∧
    isTrack ⟨[⟨-151, true⟩], 0⟩ 1 ⟨-151, true⟩ := by decide

theorem wit_ReadTocBcdRangeClearsQueue : (dev Bus.powerOn).fault = none ∧
    99 < (List.replicate 100 (⟨0, true⟩ : TocTrack)).length ∧
    after (exec (.readToc .trackCount) { dev { cdbIn [] with dataIn := [0x01] } with
      disc := { disc10 [] with toc := ⟨List.replicate 100 ⟨0, true⟩, 0⟩ } }) (fun t => (t.fault, t.bus.dataIn)) =
      some (some (.bcdRange 100), []) := by decide

theorem wit_AudioAddressIsThePosition : validBcd 0x99 ∧ validBcd 0x00 ∧ ¬ validBcd 0x0A ∧ ¬ validBcd 0xA0 ∧
    beyond toc10 11 ∧ isTrack toc10 10 ⟨9000, true⟩ := by decide

/-- A next state for each command, an address that decodes, and each control byte of AUDIO_END_POS. -/
theorem wit_AudioPlayerFollowsCommands :
    (∃ t, exec (.read 0 0) (dev Bus.powerOn) = .next t) ∧ (∃ t, exec .pause (dev Bus.powerOn) = .next t) ∧
    (∃ t, exec (.audioStartPos 0 .reserved) (dev Bus.powerOn) = .next t) ∧
    (∃ t, exec (.audioEndPos 4 .reserved) (dev Bus.powerOn) = .next t) ∧
    (∃ t, exec .testUnitReady (dev Bus.powerOn) = .next t) ∧ (∃ t, exec .readSubcodeQ (dev Bus.powerOn) = .next t) ∧
    (∃ t, exec (.readToc .trackCount) (dev Bus.powerOn) = .next t) ∧
    (∃ t, exec (.unrecognized 0x12) (dev Bus.powerOn) = .next t) ∧
    (∃ t, perform .reset (dev Bus.powerOn) = .next t) ∧ (dev Bus.powerOn).fault = none ∧
    audioAddress toc10 0 .reserved = .ok 0 ∧ 4 ≤ (4 : Byte).toNat :=
  ⟨⟨_, rfl⟩, ⟨_, rfl⟩, ⟨_, rfl⟩, ⟨_, rfl⟩, ⟨_, rfl⟩, ⟨_, rfl⟩, ⟨_, rfl⟩, ⟨_, rfl⟩, ⟨_, rfl⟩, rfl, rfl, by decide⟩

theorem wit_SetPhaseWritesEntryLines : BusPhase.status ≠ (bus .busFree []).phase ∧ BusPhase.status ≠ (bus .dataIn []).phase ∧
    ((bus .busFree []).setPhase .status).sig = ((bus .dataIn []).setPhase .status).sig := by decide

/-- Nine bytes and ten bytes held; a short CDB; a whole one that clears, one that does not, one that faults; REQ without
ACK; no byte. -/
theorem wit_CommandHandlerLatchesAndDecodes :
    let high := bus .command [.bsy, .cd, .req, .ack]
    let keeps : State := { dev (cdbIn [0x12]) with params := ⟨std, 0, false, false, true, false⟩ }
    let bad : State := dev (cdbIn [0xD8, 0, 0xA0, 0, 0, 0, 0, 0, 0, 0x80])
    (bothHigh high ∧ (List.replicate 9 (0xDA : Byte)).length < 10) ∧
    ((List.replicate 10 (0xDA : Byte)).length = 10 ∧ (dev high).fault = none) ∧
    (bothLow (cdbIn [0x00]) ∧ decodeCdb std [0x00] = .error (.needMoreData 1 6)) ∧
    (decodeCdb std [0, 0, 0, 0, 0, 0] = .ok .testUnitReady ∧
      after (exec .testUnitReady (dev (cdbIn [0, 0, 0, 0, 0, 0]))) (fun t => t.fault) = some none ∧
      clearsCommandBuffer .testUnitReady keeps.params = true) ∧
    (decodeCdb keeps.params.opcodes keeps.bus.commandBuffer = .ok (.unrecognized 0x12) ∧
      after (exec (.unrecognized 0x12) keeps) (fun t => t.fault) = some none ∧
      clearsCommandBuffer (.unrecognized 0x12) keeps.params = false) ∧
    (decodeCdb bad.params.opcodes bad.bus.commandBuffer = .ok (.audioStartPos 0 (.track 0xA0)) ∧
      after (exec (.audioStartPos 0 (.track 0xA0)) bad) (fun t => t.fault) = some (some (.badBcd 0xA0))) ∧
    (bus .command [.req]).sig.req ≠ (bus .command [.req]).sig.ack ∧
    (bothLow (cdbIn []) ∧ (cdbIn []).commandBuffer = []) := by decide

theorem wit_DataInHandlerStreamsAndDrains :
    bothHigh (bus .dataIn [.req, .ack]) ∧ bothLow { bus .dataIn [] with dataIn := [0x01] } ∧
    bothLow { bus .dataIn [] with dataTransferWasDone := true } ∧ (bus .dataIn []).dataIn = [] ∧
    (bus .dataIn []).dataTransferWasDone = false ∧ (bus .dataIn [.ack]).sig.req ≠ (bus .dataIn [.ack]).sig.ack := by decide

theorem wit_StatusAndMessageHandOff :
    bothHigh (bus .status [.req, .ack]) ∧ bothLow { bus .status [] with statusCompleted := true } ∧
    bothLow { bus .messageIn [] with messageCompleted := true } ∧ (bus .status []).statusCompleted = false ∧
    (bus .messageIn []).messageCompleted = false ∧ (bus .status [.req]).sig.req ≠ (bus .status [.req]).sig.ack := by decide

theorem wit_PassPrecedence :
    selecting (bus .busFree [.sel]) ∧ (¬ selecting (bus .dataIn [.atn]) ∧ bothLow (bus .dataIn [.atn])) ∧
    ¬ selecting (bus .dataIn [.atn, .req]) ∧ ¬ bothLow (bus .dataIn [.atn, .req]) := by decide

/-- The passes of 40_bus_fsm.md R131's example: MessageIn with the message acknowledged and SEL up, then BusFree, then
Command. -/
def handOff (j : Nat) : State :=
  if j = 0 then dev { bus .messageIn [.bsy, .sel] with messageCompleted := true }
  else if j = 1 then dev (bus .busFree [.sel])
  else dev (bus .command [.bsy, .sel, .cd, .req])

theorem wit_SettleLoopIsBounded_settles : (∀ j, j ≤ 2 → busPass (handOff j) = .next (handOff (j + 1))) ∧
    (∀ j, j < 2 → changed (handOff j) (handOff (j + 1)) ∧ (handOff (j + 1)).fault = none) ∧
    ¬ changed (handOff 2) (handOff 3) := by
  refine ⟨fun j h => ?_, fun j h => ?_, by decide⟩
  · obtain rfl | rfl | rfl : j = 0 ∨ j = 1 ∨ j = 2 := by omega
    all_goals rfl
  · obtain rfl | rfl : j = 0 ∨ j = 1 := by omega
    all_goals decide

/-- A command that faults in the first pass. -/
theorem wit_SettleLoopIsBounded_faults :
    after (busPass (dev (cdbIn [0xD8, 0, 0xA0, 0, 0, 0, 0, 0, 0, 0x80]))) (fun t => t.fault) = some (some (.badBcd 0xA0)) := by
  decide

/-- ATN held: MessageOut and BusFree alternate for 64 passes. -/
def livelock (j : Nat) : State :=
  dev (if j % 2 = 0 then bus .busFree [.atn] else bus .messageOut [.atn, .bsy, .msg, .cd, .req])

theorem wit_SettleLoopIsBounded_never : (∀ j, j < 64 → busPass (livelock j) = .next (livelock (j + 1))) ∧
    ∀ j, j < 64 → changed (livelock j) (livelock (j + 1)) ∧ (livelock (j + 1)).fault = none := by
  have even : ∀ j, j % 2 = 0 → livelock j = dev (bus .busFree [.atn]) := fun j h => by simp [livelock, h]
  have odd : ∀ j, j % 2 = 1 → livelock j = dev (bus .messageOut [.atn, .bsy, .msg, .cd, .req]) :=
    fun j h => by simp [livelock, h]
  refine ⟨fun j _ => ?_, fun j _ => ?_⟩ <;> rcases Nat.mod_two_eq_zero_or_one j with h | h
  · rw [even j h, odd (j + 1) (by omega)]; rfl
  · rw [odd j h, even (j + 1) (by omega)]; rfl
  · rw [even j h, odd (j + 1) (by omega)]; decide
  · rw [odd j h, even (j + 1) (by omega)]; decide

/-- A read that is due, its source answering too few bytes; and the other three cases. -/
theorem wit_AdvanceOrder :
    let short : State := { tick 6 { bus .command [] with dataReadInProgress := true, dataReadWaitTimer := 5 } with
      disc := disc10 [⟨0, 2048, []⟩] }
    ({ tick 1 Bus.powerOn with fault := some .queueOverflow } : State).fault ≠ none ∧
    (tick 1 (bus .command [.rst])).bus.sig.rst = true ∧
    ((advanced short 6 [] short.bus).sectorLoad.fault ≠ none ∧ short.bus.sig.rst = false ∧ short.fault = none) ∧
    (advanced (tick 1 Bus.powerOn) 1 [] Bus.powerOn).sectorLoad.fault = none := by decide

/-- A block answer of its full length, listed for LBA 0. -/
def fullDisc (n : Nat) : Disc := disc10 [⟨0, n, List.replicate n 0x00⟩]

theorem fullDisc_answers (n : Nat) : ((fullDisc n).readBlock 0 n).length = n := by
  simp [fullDisc, disc10, Disc.readBlock]

theorem fullDisc_first (n : Nat) : (fullDisc (n + 1)).readBlock 0 (n + 1) = 0x00 :: List.replicate n 0x00 := by
  simp [fullDisc, disc10, Disc.readBlock, List.replicate_succ]

/-- A device with a read in progress whose deadline was 5. -/
def reading (left : Nat) : Bus := { bus .command [.bsy] with dataReadInProgress := true, dataReadWaitTimer := 5, sectorsLeftToRead := left }

/-- The deadline itself is not past, one cycle later is; a short answer; a full answer with the last sector, and the first of
256. -/
theorem wit_SectorLoadQueuesOneSector : ¬ due (reading 1) 5 ∧ due (reading 1) 6 ∧ due (reading 256) 6 ∧
    (dev (reading 1)).fault = none ∧ ((disc10 [⟨0, 2048, []⟩]).readBlock 0 2048).length ≠ 2048 ∧
    (reading 1).sectorsLeftToRead = 0 + 1 ∧ (reading 256).sectorsLeftToRead = 255 + 1 ∧
    ((fullDisc 2048).readBlock 0 2048).length = 2048 :=
  ⟨by decide, by decide, by decide, by decide, by decide, by decide, by decide, fullDisc_answers 2048⟩

theorem wit_CounterAtZeroStaysInRange : (reading 0).sectorsLeftToRead = 0 ∧ due (reading 0) 6 ∧
    ((fullDisc 2048).readBlock 0 2048).length = 2048 := ⟨by decide, by decide, fullDisc_answers 2048⟩

/-- A load that takes a Status phase with ACK low and with ACK high, and a DataIn phase in both halves of the handshake of its
last byte. -/
theorem wit_SectorLoadPreemptsAnyPhase :
    (∀ g, g = up [.bsy] ∨ g = up [.bsy, .ack] → ∀ p, p = BusPhase.status ∨ p = BusPhase.command →
      let b : Bus := { reading 1 with phase := p, sig := g }
      (tick 6 b).inputs = [.advance 6] ∧ (tick 6 b).fault = none ∧ b.sig.rst = false ∧ due b 6 ∧
        b.sectorsLeftToRead = 0 + 1 ∧ b.phase ≠ .dataIn ∧ b.sig.atn = false) ∧
    (∀ g, g = up [.bsy, .io] ∨ g = up [.bsy, .io, .req, .ack] →
      let b : Bus := { reading 2 with phase := .dataIn, sig := g }
      b.sig.rst = false ∧ due b 6 ∧ b.sectorsLeftToRead = 1 + 1 ∧ ¬ selecting b ∧ (bothLow b ∨ bothHigh b)) ∧
    (fullDisc 2048).readBlock 0 2048 = 0x00 :: List.replicate 2047 0x00 ∧ (List.replicate 2047 (0x00 : Byte)).length = 2047 :=
  ⟨by rintro g (rfl | rfl) p (rfl | rfl) <;> decide, by rintro g (rfl | rfl) <;> decide, fullDisc_first 2047,
    List.length_replicate⟩

/-- The machine with the other reading of 70_reset_and_hazards.md R347's last item (log 32). -/
def first (s : State) : State := { s with params := { s.params with queuedBytesFirst := true } }

/-- A READ that finds two bytes of an earlier one queued, as it is decoded, at its deadline, and one cycle later. -/
theorem wit_SectorLoadPreemptsAnyPhase_queued :
    (let b : Bus := { cdbIn [0x08, 0, 0, 0x10, 2, 0] with dataIn := [0x11, 0x22], dataReadInProgress := true }
     (tick 6 b).inputs = [.advance 6] ∧ (tick 6 b).fault = none ∧ b.sig.rst = false ∧ ¬ due b 6 ∧ b.phase = .command ∧
       ¬ selecting b ∧ bothLow b ∧ b.sig.atn = false ∧ b.dataIn ≠ [] ∧
       decodeCdb (tick 6 b).params.opcodes b.commandBuffer = .ok (.read 0x10 2)) ∧
    (let b : Bus := { reading 2 with dataIn := [0x11, 0x22] }
     (tick 6 b).inputs = [.advance 6] ∧ (tick 6 b).fault = none ∧ b.sig.rst = false ∧ b.dataIn ≠ [] ∧ behindQueue b 6 ∧
       ¬ (b.sig.atn = true ∧ b.sig.ack = false) ∧ (tick 6 b).params.queuedBytesFirst = false ∧ (first (tick 6 b)).params.queuedBytesFirst = true ∧
       ¬ selecting b ∧ b.sig.ack = false) := by decide

/-- 40_bus_fsm.md R141: with bytes queued no block is read, however late it is. -/
theorem test_no_load_on_a_queue : after (step (tick 99 { reading 2 with dataIn := [0x11, 0x22] }))
    (fun t => (t.bus.dataIn, t.bus.phase, t.bus.sectorsLeftToRead, t.calls)) = some ([0x11, 0x22], .command, 2, []) := by decide

/-- 70_reset_and_hazards.md R347: in the other reading the first of the two bytes is presented, and no block is read. -/
theorem test_queued_bytes_first : after (step (first (tick 6 { reading 2 with dataIn := [0x11, 0x22] })))
    (fun t => (t.bus.dataBits, t.bus.dataIn, t.bus.sig.req, t.calls)) = some (0x11, [0x22], true, []) := by decide

theorem wit_DeviceResetTable : ({ dev Bus.powerOn with fault := some .queueOverflow } : State).fault ≠ none ∧
    (dev Bus.powerOn).fault = none := by decide

theorem wit_RstAdvanceResets : (tick 1 (bus .dataIn [.rst])).inputs = [.advance 1] ∧ (tick 1 (bus .dataIn [.rst])).fault = none ∧
    (tick 1 (bus .dataIn [.rst])).bus.sig.rst = true := by decide

theorem wit_AtnLivelockFaults : advances (tick 1 (bus .status [.atn])) 1 [] ∧ (bus .status [.atn]).sig.sel = false ∧
    (bus .status [.atn]).sig.atn = true ∧ bothLow (bus .status [.atn]) ∧ (bus .status [.atn]).phase ≠ .messageOut := by decide

theorem wit_SelectionEntersCommand : advances (tick 100 (bus .busFree [.sel])) 100 [] ∧ selecting (bus .busFree [.sel]) ∧
    (bus .busFree [.sel]).phase ≠ .command ∧ (bus .busFree [.sel]).sig.ack = false ∧
    advances (tick 1 (bus .command [.sel])) 1 [] ∧ selecting (bus .command [.sel]) := by decide

/-- ACK held with nine and with ten bytes; ATN with SEL and BSY up. -/
theorem wit_SelectionEntersCommand_held :
    (∀ n, n = 9 ∨ n = 10 →
      let b : Bus := { bus .dataIn [.sel, .ack] with commandBuffer := List.replicate n 0xDA }
      advances (tick 1 b) 1 [] ∧ selecting b ∧ b.phase ≠ .command ∧ b.sig.ack = true ∧ b.commandBuffer.length = n) ∧
    (let b := bus .status [.bsy, .sel, .atn]
     advances (tick 1 b) 1 [] ∧ b.sig.sel = true ∧ b.sig.bsy = true ∧ b.sig.atn = true ∧ bothLow b ∧
       b.phase ≠ .messageOut) := by
  refine ⟨fun n h => ?_, by decide⟩
  obtain rfl | rfl := h <;> decide

/-- A byte acknowledged in each of the four phases; nine bytes held in the Command phase. -/
theorem wit_ByteHandshakes_acknowledged :
    (let b : Bus := { bus .command [.req, .ack] with commandBuffer := List.replicate 9 0xDA }
     advances (tick 1 b) 1 [] ∧ ¬ selecting b ∧ bothHigh b ∧ b.commandBuffer.length < 10) ∧
    (let b := bus .dataIn [.bsy, .req, .ack]
     advances (tick 1 b) 1 [] ∧ ¬ selecting b ∧ bothHigh b ∧ b.phase = .dataIn) ∧
    (let b := bus .status [.bsy, .req, .ack]
     advances (tick 1 b) 1 [] ∧ ¬ selecting b ∧ bothHigh b ∧ b.phase = .status) ∧
    (let b := bus .messageIn [.bsy, .req, .ack]
     advances (tick 1 b) 1 [] ∧ ¬ selecting b ∧ bothHigh b ∧ b.phase = .messageIn) :=
  ⟨by decide, by decide, by decide, by decide⟩

/-- ACK released: a CDB one byte short (ten and six bytes), a byte to present, both drains, and both hand-offs. -/
theorem wit_ByteHandshakes_released :
    (let b := cdbIn (0xDA :: List.replicate 8 0)
     advances (tick 1 b) 1 [] ∧ ¬ selecting b ∧ bothLow b ∧ b.sig.atn = false ∧
       (List.replicate 8 (0 : Byte)).length + 1 < cdbLength std 0xDA) ∧
    (let b := cdbIn (0x08 :: List.replicate 4 0)
     advances (tick 1 b) 1 [] ∧ bothLow b ∧ (List.replicate 4 (0 : Byte)).length + 1 < cdbLength std 0x08) ∧
    (let b : Bus := { bus .dataIn [.bsy] with dataIn := [0x01] }
     advances (tick 1 b) 1 [] ∧ ¬ selecting b ∧ bothLow b ∧ b.sig.atn = false ∧ b.phase = .dataIn) ∧
    (let b : Bus := { bus .dataIn [.bsy] with dataTransferWasDone := true }
     advances (tick 1 b) 1 [] ∧ ¬ selecting b ∧ bothLow b ∧ b.dataIn = []) ∧
    (let b := bus .dataIn [.bsy]
     advances (tick 1 b) 1 [] ∧ bothLow b ∧ b.dataIn = [] ∧ b.dataTransferWasDone = false) ∧
    (let b : Bus := { bus .status [.bsy] with statusCompleted := true }
     advances (tick 1 b) 1 [] ∧ ¬ selecting b ∧ bothLow b ∧ b.sig.atn = false ∧ b.phase = .status) ∧
    (let b : Bus := { bus .messageIn [.bsy] with messageCompleted := true }
     advances (tick 1 b) 1 [] ∧ ¬ selecting b ∧ bothLow b ∧ b.sig.atn = false ∧ b.sig.sel = false) :=
  ⟨by decide, by decide, by decide, by decide, by decide, by decide, by decide⟩

theorem wit_BsyAfterResetBlocksSelection :
    ({ dev (bus .dataIn [.bsy]) with inputs := [.reset] } : State).inputs = [.reset] ∧ (dev (bus .dataIn [.bsy])).fault = none ∧
    advances (tick 1 (bus .busFree [.bsy, .sel])) 1 [] ∧ (bus .busFree [.bsy, .sel]).sig.bsy = true ∧
    (bus .busFree [.bsy, .sel]).sig.atn = false := by decide

theorem wit_PhaseGraphOfPass : after (busPass (dev (bus .dataOut []))) (fun t => t.bus.phase) = some .busFree := by decide

/-- A faulted machine and an operation of each clause. -/
theorem wit_FaultIsTerminal : (dev Bus.powerOn).fault = none ∧
    ({ tick 1 Bus.powerOn with fault := some (.badBcd 0x0A) } : State).fault = some (.badBcd 0x0A) ∧
    (∃ t, step { tick 1 Bus.powerOn with fault := some (.badBcd 0x0A) } = .next t) ∧
    ([HostOp.advance 1, .synth ⟨0, job 0⟩, .reset, .load Bus.powerOn, .writeSignal .rst true, .writeData 0xFF, .ackInterrupt,
      .readFault, .readData, .readSignals].length = 10) :=
  ⟨rfl, rfl, ⟨_, rfl⟩, by decide⟩

theorem wit_HostWritesAndReads : ({ dev Bus.powerOn with inputs := [.writeSignal .ack true] } : State).inputs =
    [.writeSignal .ack true] ∧ ({ dev Bus.powerOn with inputs := [.writeData 0xFF] } : State).inputs = [.writeData 0xFF] ∧
    ({ dev Bus.powerOn with inputs := [.ackInterrupt] } : State).inputs = [.ackInterrupt] ∧
    ({ dev Bus.powerOn with inputs := [.readSignals] } : State).inputs = [.readSignals] ∧
    ({ dev Bus.powerOn with inputs := [.readData] } : State).inputs = [.readData] ∧
    ({ dev Bus.powerOn with inputs := [.readFault] } : State).inputs = [.readFault] := by decide

theorem wit_LoadOfSaveRestores : ({ dev (bus .dataIn [.req]) with inputs := [.save] } : State).inputs = [.save] ∧
    ({ dev Bus.powerOn with inputs := [.load (bus .dataIn [.req])] } : State).inputs = [.load (bus .dataIn [.req])] ∧
    (dev Bus.powerOn).fault = none := by decide

theorem wit_RunDependsOnPersistedState :
    sameRun (tick 1 Bus.powerOn) { tick 1 Bus.powerOn with
      dest := [(0, 1)], calls := [.audioStop], now := 7, freeCount := 3 } ∧
    busBounds (tick 1 Bus.powerOn).bus ∧ ∃ t, step (tick 1 Bus.powerOn) = .next t :=
  ⟨⟨rfl, rfl, rfl, rfl, rfl, rfl, rfl⟩, by decide, ⟨_, rfl⟩⟩

/-- The completion line rises at the drain of a finished transfer and falls at an acknowledgement. -/
theorem wit_InterruptLinesFollowTheirRules :
    after (step (tick 1 { bus .dataIn [.bsy] with dataTransferWasDone := true })) (fun t => t.bus.intDataTransferComplete) =
      some true ∧
    after (step { dev { Bus.powerOn with intDataTransferComplete := true } with inputs := [.ackInterrupt] })
      (fun t => t.bus.intDataTransferComplete) = some false := by decide

/-- The ready line rises at a sector load. -/
theorem wit_InterruptLines_ready : ({ dev (reading 1) with disc := fullDisc 2048, now := 6 } : State).sectorLoad.bus.intDataTransferReady =
    true := by
  rcases State.sectorLoad_cases { dev (reading 1) with disc := fullDisc 2048, now := 6 } with ⟨h, _⟩ | ⟨_, h, _⟩ | ⟨_, _, h⟩
  · exact absurd h (by decide)
  · exact absurd (fullDisc_answers 2048) h
  · rw [h]; rfl

/-- The ready line falls at a drain, at RST and at a Reset. -/
theorem wit_InterruptLines_ready_falls :
    (∀ ls, ls = [.bsy] ∨ ls = [.rst, .ack] → after (step (tick 1 { bus .dataIn ls with intDataTransferReady := true }))
      (fun t => t.bus.intDataTransferReady) = some false) ∧
    after (step { dev { bus .status [] with intDataTransferReady := true } with inputs := [.reset] })
      (fun t => t.bus.intDataTransferReady) = some false := by
  refine ⟨?_, by decide⟩
  rintro ls (rfl | rfl) <;> decide

theorem wit_ParametersAndDiscAreConstant : ∃ t, step (tick 1 (cdbIn [0, 0, 0, 0, 0, 0])) = .next t := ⟨_, rfl⟩

theorem wit_StepKeepsInvariant : invariant (tick 1 (cdbIn [0, 0, 0, 0, 0, 0])) ∧
    ∃ t, step (tick 1 (cdbIn [0, 0, 0, 0, 0, 0])) = .next t := by
  refine ⟨⟨by decide, by decide, by decide, by decide, ?_⟩, ⟨_, rfl⟩⟩
  intro image h
  exact absurd h (by simp [tick])

/-- One job for each check, at its boundary; and a recorded fault. -/
theorem wit_SynthChecksInOrder :
    refusal 0 { job 0 with off := 1 } 2448 = some (.frameBounds 1) ∧
    refusal 0 (job 0x80) 2448 = some (.jobRefused (.parts 0x80)) ∧
    refusal 4 (job 0x7F) 2448 = some (.jobRefused (.variant 4)) ∧
    refusal 3 { job 0 with mode := 0 } 2448 = some (.jobRefused (.mode 0)) ∧
    refusal 1 { job 4 with mode := 2 } 2448 = some (.jobRefused (.mode 2)) ∧
    refusal 0 { job 2 with lba := 449850 } 2448 = some (.msfRange 449850) ∧
    ({ dev Bus.powerOn with inputs := [.synth ⟨0, job 0⟩], fault := some .queueOverflow } : State).fault ≠ none := by decide

/-- Every variant runs: all parts, with the block answers listed. -/
theorem runs_mode1 : runs 0 (job 0x7F) { dev Bus.powerOn with disc := fullDisc 2048 } := by
  refine ⟨rfl, by decide, fun n h => ?_⟩
  obtain rfl : n = 2048 := by omega
  exact fullDisc_answers 2048

theorem runs_gap2048 : runs 1 (job 0x3F) (dev Bus.powerOn) :=
  ⟨rfl, by decide, fun n h => by rcases h with ⟨h, _⟩ | ⟨h, _⟩ <;> cases h⟩

theorem runs_raw : runs 2 (job 0x7F) { dev Bus.powerOn with disc := fullDisc 2352 } := by
  refine ⟨rfl, by decide, fun n h => ?_⟩
  obtain rfl : n = 2352 := by omega
  exact fullDisc_answers 2352

theorem runs_gap2352 : runs 3 (job 0x3F) (dev Bus.powerOn) :=
  ⟨rfl, by decide, fun n h => by rcases h with ⟨h, _⟩ | ⟨h, _⟩ <;> cases h⟩

/-- A job without a main-channel or a subchannel part runs too. -/
theorem runs_no_part : runs 0 (job 0) (dev Bus.powerOn) ∧ runs 2 (job 0x40) (dev Bus.powerOn) :=
  ⟨⟨rfl, by decide, fun n h => by rcases h with ⟨_, h, _⟩ | ⟨h, _⟩ <;> cases h⟩,
    ⟨rfl, by decide, fun n h => by rcases h with ⟨h, _⟩ | ⟨_, h, _⟩ <;> exact absurd h (by decide)⟩⟩

theorem wit_SynthVariantsComplete : runs 0 (job 0x7F) { dev Bus.powerOn with disc := fullDisc 2048 } ∧ user (job 0x7F) ∧
    runs 0 (job 0) (dev Bus.powerOn) ∧ ¬ user (job 0) ∧ runs 1 (job 0x3F) (dev Bus.powerOn) ∧
    runs 2 (job 0x7F) { dev Bus.powerOn with disc := fullDisc 2352 } ∧ anyMain (job 0x7F) ∧
    runs 2 (job 0x40) (dev Bus.powerOn) ∧ ¬ anyMain (job 0x40) ∧ runs 3 (job 0x3F) (dev Bus.powerOn) :=
  ⟨runs_mode1, by decide, runs_no_part.1, by decide, runs_gap2048, runs_raw, by decide, runs_no_part.2, by decide, runs_gap2352⟩

theorem wit_SynthBlockSizeFaults : (dev Bus.powerOn).fault = none ∧ refusal 0 (job 1) 2448 = none ∧ asked 0 (job 1) 2048 ∧
    refusal 2 (job 4) 2448 = none ∧ asked 2 (job 4) 2352 ∧
    ((disc10 [⟨0, 2048, []⟩]).readBlock 0 2048).length ≠ 2048 ∧ ((disc10 [⟨0, 2352, []⟩]).readBlock 0 2352).length ≠ 2352 := by
  decide

/-- A byte before the frame, one in it that no requested part covers, and one after it. -/
theorem wit_SynthWriteRange : (∃ t, exec (synthInstr 1 { job 2 with off := 1 }) (dev Bus.powerOn) = .next t) ∧
    ¬ (∃ k, 0 = 1 + k ∧ k < 2448 ∧ mayWrite 1 { job 2 with off := 1 } k) ∧
    ¬ (∃ k, 17 = 1 + k ∧ k < 2448 ∧ mayWrite 1 { job 2 with off := 1 } k) ∧
    ¬ (∃ k, 2449 = 1 + k ∧ k < 2448 ∧ mayWrite 1 { job 2 with off := 1 } k) := by
  refine ⟨⟨_, rfl⟩, ?_, ?_, ?_⟩
  · rintro ⟨k, h, _⟩; omega
  · rintro ⟨k, h, _, hw⟩
    obtain rfl : k = 16 := by omega
    exact absurd hw (by decide)
  · rintro ⟨k, h, h', _⟩; omega

theorem wit_SynthUserDataAndHeader : runs 0 (job 0x7F) { dev Bus.powerOn with disc := fullDisc 2048 } ∧
    runs 1 (job 0x3F) (dev Bus.powerOn) ∧ user (job 0x3F) ∧ header (job 0x3F) :=
  ⟨runs_mode1, runs_gap2048, by decide, by decide⟩

theorem wit_SynthEdcAndReserved : runs 0 (job 0x7F) { dev Bus.powerOn with disc := fullDisc 2048 } ∧ ecm (job 0x7F) :=
  ⟨runs_mode1, by decide⟩

theorem wit_SynthEccIsACodeword : runs 1 (job 0x3F) (dev Bus.powerOn) ∧ ecm (job 0x3F) := ⟨runs_gap2048, by decide⟩

theorem wit_GapIsZeroBacked : runs 1 (job 0x3F) (dev Bus.powerOn) ∧ runs 3 (job 0x3F) (dev Bus.powerOn) :=
  ⟨runs_gap2048, runs_gap2352⟩

theorem wit_RawMainChannelIsVerbatim : runs 2 (job 0x7F) { dev Bus.powerOn with disc := fullDisc 2352 } ∧ anyMain (job 0x7F) ∧
    runs 2 (job 0x40) (dev Bus.powerOn) ∧ ¬ anyMain (job 0x40) ∧ runs 3 (job 0x3F) (dev Bus.powerOn) :=
  ⟨runs_raw, by decide, runs_no_part.2, by decide, runs_gap2352⟩

theorem wit_SubcodeRegionOfEveryVariant : (runs 0 (job 0) (dev Bus.powerOn) ∧ ¬ anySub (job 0)) ∧
    (runs 2 (job 0x7F) { dev Bus.powerOn with disc := fullDisc 2352 } ∧ anySub (job 0x7F) ∧ deint (job 0x7F)) ∧
    runs 3 (job 0x3F) (dev Bus.powerOn) ∧ anySub (job 0x3F) ∧ ¬ deint (job 0x3F) :=
  ⟨⟨runs_no_part.1, by decide⟩, ⟨runs_raw, by decide, by decide⟩, runs_gap2352, by decide, by decide⟩

theorem wit_SynthesisIsDeterministicAndIdempotent : runs 1 (job 0x3F) (dev Bus.powerOn) ∧
    (chanP (job 0x3F) ∧ chanQ (job 0x3F) ∧ chanRW (job 0x3F)) ∧ runs 0 (job 0) (dev Bus.powerOn) ∧ ¬ anySub (job 0) ∧
    runs 0 (job 0x7F) { dev Bus.powerOn with disc := fullDisc 2048 } ∧ deint (job 0x7F) ∧
    frameBytes (dev Bus.powerOn) (job 0x3F) 0 2448 = frameBytes (dev Bus.powerOn) (job 0x3F) 0 2448 :=
  ⟨runs_gap2048, by decide, runs_no_part.1, by decide, runs_mode1, by decide, rfl⟩

theorem wit_InterleaveIsABitPermutation : (List.replicate 96 (0x5A : Byte)).length = 96 ∧ 95 < 96 ∧ 7 < 8 := by decide

theorem wit_BcdCodecIsExact : validBcd 0x99 ∧ ¬ validBcd 0x9A ∧ ¬ validBcd 0xA0 ∧ 99 ≤ 99 ∧ 99 < 100 := by decide

theorem wit_LbaMsfRoundTrip : hasTime (-150) ∧ hasTime 449849 ∧ ¬ hasTime (-151) ∧ ¬ hasTime 449850 := by decide

end Sys2Proof.Tests
end

section
/-! PROOFS. The statements of 30_encoding.md that are settled here: ignored CDB bits (R101), the READ command (R93) and the
lines of a phase entry (R105). -/

namespace Sys2Proof.Proofs.Encoding
open Machine Claims

/-! ## A complete CDB decodes to its command (30_encoding.md R91) -/

theorem decodeCdb_of_length_le {o : Opcodes} {op : Byte} {rest : List Byte} (h : cdbLength o op ≤ rest.length + 1) :
    decodeCdb o (op :: rest) = .ok (decodeFields o op (op :: rest)) := by
  rw [decodeCdb_cons, if_neg (Nat.not_lt.mpr h)]

theorem decodeCdb_of_sixByte {o : Opcodes} {op : Byte} (h : op ∈ o.sixByte) {rest : List Byte}
    (hlen : rest.length = 5) : decodeCdb o (op :: rest) = .ok (decodeFields o op (op :: rest)) :=
  decodeCdb_of_length_le (by rw [cdbLength_of_sixByte h, hlen])

theorem decodeCdb_of_tenByte {o : Opcodes} (hd : o.distinct) {op : Byte} (h : op ∈ o.tenByte) {rest : List Byte}
    (hlen : rest.length = 9) : decodeCdb o (op :: rest) = .ok (decodeFields o op (op :: rest)) :=
  decodeCdb_of_length_le (by rw [cdbLength_of_tenByte hd h, hlen])

/-- An opcode of no row is executed from its first byte, whatever follows it (30_encoding.md R102). -/
theorem decodeCdb_of_unassigned {o : Opcodes} {op : Byte} (h : op ∉ o.assigned) (rest : List Byte) :
    decodeCdb o (op :: rest) = .ok (.unrecognized op) := by
  rw [decodeCdb_of_length_le (by rw [cdbLength_of_unassigned h]; omega), decodeFields_of_unassigned h]

/-! ### The command of each assigned opcode (30_encoding.md R92 to R99) -/

section
variable {o : Opcodes} (hd : o.distinct) {rest : List Byte}
include hd

theorem decodeCdb_testUnitReady (hlen : rest.length = 5) : decodeCdb o (o.testUnitReady :: rest) = .ok .testUnitReady := by
  obtain ⟨hfields, -⟩ := decodeFields_of_assigned hd (o.testUnitReady :: rest)
  rw [decodeCdb_of_sixByte (by simp [Opcodes.sixByte]) hlen, hfields]

theorem decodeCdb_read (b1 b2 b3 b4 b5 : Byte) :
    decodeCdb o [o.read, b1, b2, b3, b4, b5] = .ok (.read (b1.extractLsb' 0 5 ++ b2 ++ b3) b4) := by
  obtain ⟨-, hfields, -⟩ := decodeFields_of_assigned hd [o.read, b1, b2, b3, b4, b5]
  rw [decodeCdb_of_sixByte (by simp [Opcodes.sixByte]) rfl, hfields]
  rfl

theorem decodeCdb_audioStartPos (hlen : rest.length = 9) :
    decodeCdb o (o.audioStartPos :: rest) =
      .ok (.audioStartPos (cdbByte (o.audioStartPos :: rest) 1) (decodeAudioAddr (o.audioStartPos :: rest))) := by
  obtain ⟨-, -, hfields, -⟩ := decodeFields_of_assigned hd (o.audioStartPos :: rest)
  rw [decodeCdb_of_tenByte hd (by simp [Opcodes.tenByte]) hlen, hfields]

theorem decodeCdb_audioEndPos (hlen : rest.length = 9) :
    decodeCdb o (o.audioEndPos :: rest) =
      .ok (.audioEndPos (cdbByte (o.audioEndPos :: rest) 1) (decodeAudioAddr (o.audioEndPos :: rest))) := by
  obtain ⟨-, -, -, hfields, -⟩ := decodeFields_of_assigned hd (o.audioEndPos :: rest)
  rw [decodeCdb_of_tenByte hd (by simp [Opcodes.tenByte]) hlen, hfields]

theorem decodeCdb_pause (hlen : rest.length = 9) : decodeCdb o (o.pause :: rest) = .ok .pause := by
  obtain ⟨-, -, -, -, hfields, -⟩ := decodeFields_of_assigned hd (o.pause :: rest)
  rw [decodeCdb_of_tenByte hd (by simp [Opcodes.tenByte]) hlen, hfields]

theorem decodeCdb_readSubcodeQ (hlen : rest.length = 9) : decodeCdb o (o.readSubcodeQ :: rest) = .ok .readSubcodeQ := by
  obtain ⟨-, -, -, -, -, hfields, -⟩ := decodeFields_of_assigned hd (o.readSubcodeQ :: rest)
  rw [decodeCdb_of_tenByte hd (by simp [Opcodes.tenByte]) hlen, hfields]

theorem decodeCdb_readToc (hlen : rest.length = 9) :
    decodeCdb o (o.readToc :: rest) = .ok (.readToc (decodeTocRequest (o.readToc :: rest))) := by
  obtain ⟨-, -, -, -, -, -, hfields⟩ := decodeFields_of_assigned hd (o.readToc :: rest)
  rw [decodeCdb_of_tenByte hd (by simp [Opcodes.tenByte]) hlen, hfields]

end

/-! ## The named bits of a byte -/

/-- The mask 0x1F keeps bits 4:0 (30_encoding.md R93). -/
theorem extractLsb'_five_of_and_0x1F (b : Byte) : (b &&& 0x1F).extractLsb' 0 5 = b.extractLsb' 0 5 := by
  rw [BitVec.extractLsb'_and, show (0x1F : Byte).extractLsb' 0 5 = BitVec.allOnes 5 from rfl, BitVec.and_allOnes]

/-- The mask 0xC0 keeps bits 7:6 (30_encoding.md R95). -/
theorem extractLsb'_two_of_and_0xC0 {b kind : Byte} (h : b &&& 0xC0 = kind) :
    b.extractLsb' 6 2 = kind.extractLsb' 6 2 := by
  rw [← h, BitVec.extractLsb'_and, show (0xC0 : Byte).extractLsb' 6 2 = BitVec.allOnes 2 from rfl, BitVec.and_allOnes]

/-- Bits 7:6 take four values. -/
theorem and_0xC0_cases (b : Byte) : b &&& 0xC0 = 0x00 ∨ b &&& 0xC0 = 0x40 ∨ b &&& 0xC0 = 0x80 ∨ b &&& 0xC0 = 0xC0 := by
  revert b; decide

/-! ## The address of an AUDIO_* CDB, by bits 7:6 of byte 9 (30_encoding.md R95) -/

section
variable {cdb : List Byte}

theorem decodeAudioAddr_of_0x00 (h : cdbByte cdb 9 &&& 0xC0 = 0x00) :
    decodeAudioAddr cdb = .lba (cdbByte cdb 3 ++ cdbByte cdb 4 ++ cdbByte cdb 5) := by
  simp [decodeAudioAddr, extractLsb'_two_of_and_0xC0 h]

theorem decodeAudioAddr_of_0x40 (h : cdbByte cdb 9 &&& 0xC0 = 0x40) :
    decodeAudioAddr cdb = .msf (cdbByte cdb 2) (cdbByte cdb 3) (cdbByte cdb 4) := by
  simp [decodeAudioAddr, extractLsb'_two_of_and_0xC0 h]

theorem decodeAudioAddr_of_0x80 (h : cdbByte cdb 9 &&& 0xC0 = 0x80) :
    decodeAudioAddr cdb = .track (cdbByte cdb 2) := by
  simp [decodeAudioAddr, extractLsb'_two_of_and_0xC0 h]

theorem decodeAudioAddr_of_0xC0 (h : cdbByte cdb 9 &&& 0xC0 = 0xC0) : decodeAudioAddr cdb = .reserved := by
  simp [decodeAudioAddr, extractLsb'_two_of_and_0xC0 h]

end

/-- Two CDBs with the same address type and the same bytes of that type have the same address. -/
theorem decodeAudioAddr_congr {v w : List Byte} (hkind : cdbByte v 9 &&& 0xC0 = cdbByte w 9 &&& 0xC0)
    (hlba : cdbByte v 9 &&& 0xC0 = 0x00 →
      cdbByte v 3 = cdbByte w 3 ∧ cdbByte v 4 = cdbByte w 4 ∧ cdbByte v 5 = cdbByte w 5)
    (hmsf : cdbByte v 9 &&& 0xC0 = 0x40 →
      cdbByte v 2 = cdbByte w 2 ∧ cdbByte v 3 = cdbByte w 3 ∧ cdbByte v 4 = cdbByte w 4)
    (htrack : cdbByte v 9 &&& 0xC0 = 0x80 → cdbByte v 2 = cdbByte w 2) :
    decodeAudioAddr v = decodeAudioAddr w := by
  obtain h | h | h | h := and_0xC0_cases (cdbByte v 9)
  · obtain ⟨h3, h4, h5⟩ := hlba h
    rw [decodeAudioAddr_of_0x00 h, decodeAudioAddr_of_0x00 (hkind ▸ h), h3, h4, h5]
  · obtain ⟨h2, h3, h4⟩ := hmsf h
    rw [decodeAudioAddr_of_0x40 h, decodeAudioAddr_of_0x40 (hkind ▸ h), h2, h3, h4]
  · rw [decodeAudioAddr_of_0x80 h, decodeAudioAddr_of_0x80 (hkind ▸ h), htrack h]
  · rw [decodeAudioAddr_of_0xC0 h, decodeAudioAddr_of_0xC0 (hkind ▸ h)]

/-- READ_TOC reads byte 1, and byte 2 in sub-function 2 alone (30_encoding.md R98). -/
theorem decodeTocRequest_congr {v w : List Byte} (hfn : cdbByte v 1 = cdbByte w 1)
    (htrack : cdbByte v 1 = 2 → cdbByte v 2 = cdbByte w 2) : decodeTocRequest v = decodeTocRequest w := by
  by_cases h : cdbByte v 1 = 2
  · simp only [decodeTocRequest, ← hfn, htrack h]
  · simp only [decodeTocRequest, ← hfn, if_neg h]

/-! ## Ignored bits (30_encoding.md R101) -/

/-- Settles O5: each command's equation speaks of its named bits only. -/
theorem ignoredBitsHaveNoEffect : Obligations.IgnoredBitsHaveNoEffect := by
  unfold Obligations.IgnoredBitsHaveNoEffect
  intro o hd b c six ten
  refine ⟨?testUnitReady, ?read, ?audio, ?pause, ?readSubcodeQ, ?readToc, ?unassigned⟩
  case testUnitReady => rw [decodeCdb_testUnitReady hd rfl, decodeCdb_testUnitReady hd rfl]
  case read =>
    rintro ⟨hhigh, hmid, hlow, hcount⟩
    have hbits : (b 0).extractLsb' 0 5 = (c 0).extractLsb' 0 5 := by
      rw [← extractLsb'_five_of_and_0x1F, hhigh, extractLsb'_five_of_and_0x1F]
    rw [decodeCdb_read hd, decodeCdb_read hd, hbits, hmid, hlow, hcount]
  case audio =>
    intro op hop hcontrol hkind hlba hmsf htrack
    have haddr : decodeAudioAddr (ten op b) = decodeAudioAddr (ten op c) := decodeAudioAddr_congr hkind hlba hmsf htrack
    have hbyte : cdbByte (ten op b) 1 = cdbByte (ten op c) 1 := hcontrol
    obtain rfl | rfl := hop
    · rw [decodeCdb_audioStartPos hd rfl, decodeCdb_audioStartPos hd rfl, haddr, hbyte]
    · rw [decodeCdb_audioEndPos hd rfl, decodeCdb_audioEndPos hd rfl, haddr, hbyte]
  case pause => rw [decodeCdb_pause hd rfl, decodeCdb_pause hd rfl]
  case readSubcodeQ => rw [decodeCdb_readSubcodeQ hd rfl, decodeCdb_readSubcodeQ hd rfl]
  case readToc =>
    intro hfn htrack
    have hreq : decodeTocRequest (ten o.readToc b) = decodeTocRequest (ten o.readToc c) :=
      decodeTocRequest_congr hfn htrack
    rw [decodeCdb_readToc hd rfl, decodeCdb_readToc hd rfl, hreq]
  case unassigned =>
    intro op v w hop
    rw [decodeCdb_of_unassigned hop, decodeCdb_of_unassigned hop]

/-! ## READ (30_encoding.md R93, 41_scsi_commands.md R172) -/

/-- Two words put together read as the high one above the low one. -/
theorem toNat_append_byte {n : Nat} (x : BitVec n) (y : Byte) : (x ++ y).toNat = x.toNat * 256 + y.toNat := by
  rw [BitVec.toNat_append, ← Nat.shiftLeft_add_eq_or_of_lt y.isLt, Nat.shiftLeft_eq]

/-- The LBA of a READ CDB: bits 4:0 of byte 1, byte 2 and byte 3 (30_encoding.md R93). -/
theorem toNat_read_lba (b1 b2 b3 : Byte) :
    (b1.extractLsb' 0 5 ++ b2 ++ b3).toNat = (b1.toNat % 32) * 65536 + b2.toNat * 256 + b3.toNat := by
  have hhigh : (b1.extractLsb' 0 5).toNat = b1.toNat % 32 := by simp [BitVec.extractLsb'_toNat]
  rw [toNat_append_byte, toNat_append_byte, hhigh]
  omega

theorem exec_read (lba : BitVec 21) (count : Byte) (s : State) : exec (.read lba count) s = execRead lba count s := rfl

/-- Settles O8: the fields by the decoder's equation for READ, the effect by the one write of `Bus.startRead` and the
player's stop. -/
theorem readStartsMultiSectorRead : Obligations.ReadStartsMultiSectorRead := by
  unfold Obligations.ReadStartsMultiSectorRead
  refine ⟨fun o hd b1 b2 b3 b4 b5 => ?fields, fun lba count s => ?effect⟩
  case fields =>
    exact ⟨b1.extractLsb' 0 5 ++ b2 ++ b3, b4, decodeCdb_read hd b1 b2 b3 b4 b5, toNat_read_lba b1 b2 b3, rfl⟩
  case effect =>
    refine ⟨{ s.audio with mode := .stopped }, ?_⟩
    rw [exec_read]
    rfl

/-! ## Phase entry (30_encoding.md R105, 40_bus_fsm.md R133) -/

/-- SetPhase writes the row of the entry table, and nothing in the active phase. -/
theorem setPhase_eq_inPhase (b : Bus) (p : BusPhase) :
    b.setPhase p =
      inPhase b p (entrySet p).bsy (entrySet p).msg (entrySet p).cd (entrySet p).io (entrySet p).req := by
  by_cases h : p = b.phase
  · subst h
    rw [Bus.setPhase_self, inPhase, if_pos rfl]
  · rw [Bus.setPhase_of_ne b h, inPhase, if_neg (Ne.symm h)]
    rfl

/-- The lines of an entered phase are its row of the entry table. -/
theorem setPhase_sig_of_ne {b : Bus} {p : BusPhase} (h : p ≠ b.phase) :
    (b.setPhase p).sig = b.sig.enter (entrySet p) := by
  rw [Bus.setPhase_of_ne b h]

/-- The phase whose row of the entry table has these BSY, MSG, CD and IO lines (30_encoding.md R105). -/
def phaseOfLines (bsy msg cd io : Bool) : BusPhase :=
  match bsy, msg, cd, io with
  | false, _, _, _ => .busFree
  | true, false, true, false => .command
  | true, false, false, true => .dataIn
  | true, false, false, false => .dataOut
  | true, true, _, true => .messageIn
  | true, true, _, false => .messageOut
  | true, false, true, true => .status

theorem phaseOfLines_entrySet (p : BusPhase) :
    phaseOfLines (entrySet p).bsy (entrySet p).msg (entrySet p).cd (entrySet p).io = p := by
  cases p <;> rfl

/-- BSY, MSG, CD and IO tell the seven rows of the entry table apart. -/
theorem eq_of_entrySet_lines_eq {p q : BusPhase} (hbsy : (entrySet p).bsy = (entrySet q).bsy)
    (hmsg : (entrySet p).msg = (entrySet q).msg) (hcd : (entrySet p).cd = (entrySet q).cd)
    (hio : (entrySet p).io = (entrySet q).io) : p = q := by
  rw [← phaseOfLines_entrySet p, hbsy, hmsg, hcd, hio, phaseOfLines_entrySet]

/-- Settles O17: the table is `entrySet`, and four lines of a row give back its phase. -/
theorem setPhaseWritesEntryLines : Obligations.SetPhaseWritesEntryLines := by
  unfold Obligations.SetPhaseWritesEntryLines
  refine ⟨fun b => ?table, fun b c p q hp hq hbsy hmsg hcd hio => ?apart⟩
  case table =>
    exact ⟨setPhase_eq_inPhase b .busFree, setPhase_eq_inPhase b .command, setPhase_eq_inPhase b .dataIn,
      setPhase_eq_inPhase b .dataOut, setPhase_eq_inPhase b .messageIn, setPhase_eq_inPhase b .messageOut,
      setPhase_eq_inPhase b .status⟩
  case apart =>
    rw [setPhase_sig_of_ne hp, setPhase_sig_of_ne hq] at hbsy hmsg hcd hio
    exact eq_of_entrySet_lines_eq hbsy hmsg hcd hio

end Sys2Proof.Proofs.Encoding
end

section
/-! PROOFS. The statements of 40_bus_fsm.md that are settled here: status entry (R134), the handlers (R136 to R140, R142),
a pass and the settle loop (R131, R132), the sector load and an Advance (R130, R141), the host's writes and reads (R143,
R144, R146). -/

namespace Sys2Proof.Proofs.BusFsm
open Machine Claims
open Encoding (setPhase_eq_inPhase)

/-! ## The two handshake tests (40_bus_fsm.md R136 to R139) -/

theorem handshake_iff (b : Bus) : b.handshake = true ↔ bothHigh b := by simp [Bus.handshake]

theorem handshakeIdle_iff (b : Bus) : b.handshakeIdle = true ↔ bothLow b := by simp [Bus.handshakeIdle]

theorem handshake_of_bothLow {b : Bus} (h : bothLow b) : b.handshake = false := by simp [Bus.handshake, h.1]

theorem handshakeIdle_of_bothHigh {b : Bus} (h : bothHigh b) : b.handshakeIdle = false := by
  simp [Bus.handshakeIdle, h.1]

theorem handshake_of_ne {b : Bus} (h : b.sig.req ≠ b.sig.ack) : b.handshake = false := by
  by_contra hh
  have hb : bothHigh b := (handshake_iff b).1 (by simpa using hh)
  exact h (hb.1.trans hb.2.symm)

theorem handshakeIdle_of_ne {b : Bus} (h : b.sig.req ≠ b.sig.ack) : b.handshakeIdle = false := by
  by_contra hh
  have hb : bothLow b := (handshakeIdle_iff b).1 (by simpa using hh)
  exact h (hb.1.trans hb.2.symm)

/-- REQ deasserted with ACK high is neither test. -/
theorem setReq_false_handshakeIdle {b : Bus} (h : b.sig.ack = true) : (b.setReq false).handshakeIdle = false := by
  simp [Bus.handshakeIdle, Bus.setReq, h]

/-! ## Entering a phase (40_bus_fsm.md R133, R134) -/

/-- SetPhase as one write: the phase, and the lines unless it is the active one. -/
theorem setPhase_eq_write (b : Bus) (p : BusPhase) :
    b.setPhase p = { b with phase := p, sig := if b.phase = p then b.sig else b.sig.enter (entrySet p) } := by
  by_cases h : b.phase = p
  · subst h
    rw [Bus.setPhase_self, if_pos rfl]
  · rw [Bus.setPhase_of_ne b (Ne.symm h), if_neg h]

/-- EnterStatus with GOOD and COMMAND COMPLETE, in the words of the statements. -/
theorem enterGoodStatus_eq_inStatus (b : Bus) : b.enterGoodStatus = inStatus b := by
  rw [Bus.enterGoodStatus, Bus.enterStatus, setPhase_eq_write]
  rfl

/-- Settles O18: the latch and the flags are written first, then the phase is entered. -/
theorem enterStatusPresentsStatus : Obligations.EnterStatusPresentsStatus := by
  unfold Obligations.EnterStatusPresentsStatus
  refine ⟨fun b status message => ?enter, fun b => rfl, fun b => ?inStatus⟩
  case enter => exact setPhase_eq_inPhase _ .status
  case inStatus => exact (enterGoodStatus_eq_inStatus b).symm

/-! ## The DataIn handler (40_bus_fsm.md R137) -/

theorem dataInHandler_of_bothHigh {b : Bus} (h : bothHigh b) : b.dataInHandler = b.setReq false := by
  rw [Bus.dataInHandler, if_pos ((handshake_iff b).2 h)]

theorem dataInHandler_of_cons {b : Bus} (h : bothLow b) {byte : Byte} {rest : List Byte} (hq : b.dataIn = byte :: rest) :
    b.dataInHandler = { b with dataBits := byte, dataIn := rest }.setReq true := by
  simp [Bus.dataInHandler, handshake_of_bothLow h, (handshakeIdle_iff b).2 h, hq]

theorem dataInHandler_of_nil {b : Bus} (h : bothLow b) (hq : b.dataIn = []) : b.dataInHandler = b.drain := by
  simp [Bus.dataInHandler, handshake_of_bothLow h, (handshakeIdle_iff b).2 h, hq]

theorem dataInHandler_of_ne {b : Bus} (h : b.sig.req ≠ b.sig.ack) : b.dataInHandler = b := by
  simp [Bus.dataInHandler, handshake_of_ne h, handshakeIdle_of_ne h]

/-- The drain at the end of a transfer raises the completion line. -/
theorem drain_of_done {b : Bus} (h : b.dataTransferWasDone = true) :
    b.drain = inStatus { b with intDataTransferReady := false, dataTransferInProgress := false,
                                dataTransferWasDone := false, intDataTransferComplete := true } := by
  simp [Bus.drain, h, enterGoodStatus_eq_inStatus]

/-- The drain between two sectors of a transfer, or of a command's answer. -/
theorem drain_of_not_done {b : Bus} (h : b.dataTransferWasDone = false) :
    b.drain = inStatus { b with intDataTransferReady := false } := by
  simp [Bus.drain, h, enterGoodStatus_eq_inStatus]

/-- Settles O20, one equation of the handler for each clause. -/
theorem dataInHandlerStreamsAndDrains : Obligations.DataInHandlerStreamsAndDrains := by
  unfold Obligations.DataInHandlerStreamsAndDrains
  refine fun b => ⟨fun h => ?retire, fun h byte rest hq => ?present, fun h hq hd => ?last, fun h hq hd => ?more,
    dataInHandler_of_ne⟩
  case retire => rw [dataInHandler_of_bothHigh h, Bus.setReq]
  case present => rw [dataInHandler_of_cons h hq, Bus.setReq]
  case last => rw [dataInHandler_of_nil h hq, drain_of_done hd]
  case more => rw [dataInHandler_of_nil h hq, drain_of_not_done hd]

/-! ## The Status and MessageIn handlers (40_bus_fsm.md R138, R139) -/

/-- An acknowledged status byte is recorded; with ACK still high there is no hand-off. -/
theorem statusHandler_of_bothHigh {b : Bus} (h : bothHigh b) :
    b.statusHandler = { b with statusCompleted := true }.setReq false := by
  have hidle := setReq_false_handshakeIdle (b := { b with statusCompleted := true }) h.2
  simp [Bus.statusHandler, Bus.statusAcked, (handshake_iff b).2 h, hidle]

theorem statusHandler_of_not_handshake {b : Bus} (h : b.handshake = false) :
    b.statusHandler =
      if b.handshakeIdle && b.statusCompleted then
        { b with statusCompleted := false, dataBits := b.messageValue }.setPhase .messageIn
      else b := by
  simp [Bus.statusHandler, Bus.statusAcked, h]

/-- An acknowledged message byte is recorded; with ACK still high there is no hand-off. -/
theorem messageInHandler_of_bothHigh {b : Bus} (h : bothHigh b) :
    b.messageInHandler = { b with messageCompleted := true }.setReq false := by
  have hidle := setReq_false_handshakeIdle (b := { b with messageCompleted := true }) h.2
  simp [Bus.messageInHandler, Bus.messageAcked, (handshake_iff b).2 h, hidle]

theorem messageInHandler_of_not_handshake {b : Bus} (h : b.handshake = false) :
    b.messageInHandler =
      if b.handshakeIdle && b.messageCompleted then { b with messageCompleted := false }.setPhase .busFree else b := by
  simp [Bus.messageInHandler, Bus.messageAcked, h]

/-- Settles O21: with REQ and ACK high the acknowledgement, else the hand-off, gated by the completion flag. -/
theorem statusAndMessageHandOff : Obligations.StatusAndMessageHandOff := by
  unfold Obligations.StatusAndMessageHandOff
  refine fun b => ⟨fun h => ⟨statusHandler_of_bothHigh h, messageInHandler_of_bothHigh h⟩, fun h hc => ?toMessageIn,
    fun h hc => ?toBusFree, fun h hc => ?statusWaits, fun h hc => ?messageWaits, fun h => ⟨?statusIdle, ?messageIdle⟩⟩
  case toMessageIn =>
    rw [statusHandler_of_not_handshake (handshake_of_bothLow h), (handshakeIdle_iff b).2 h, hc]
    exact setPhase_eq_inPhase _ .messageIn
  case toBusFree =>
    rw [messageInHandler_of_not_handshake (handshake_of_bothLow h), (handshakeIdle_iff b).2 h, hc]
    exact setPhase_eq_inPhase _ .busFree
  case statusWaits => simp [statusHandler_of_not_handshake (handshake_of_bothLow h), hc]
  case messageWaits => simp [messageInHandler_of_not_handshake (handshake_of_bothLow h), hc]
  case statusIdle => simp [statusHandler_of_not_handshake (handshake_of_ne h), handshakeIdle_of_ne h]
  case messageIdle => simp [messageInHandler_of_not_handshake (handshake_of_ne h), handshakeIdle_of_ne h]

/-! ## The Command handler (40_bus_fsm.md R136) -/

/-- Every instruction answers with a next state: its faults are recorded there (60_exceptions.md R300). -/
theorem exec_answers (i : Instr) (s : State) : ∃ t, exec i s = .next t := by
  cases i <;> exact ⟨_, rfl⟩

theorem faulted_iff (s : State) : s.faulted = true ↔ s.fault ≠ none := Option.isSome_iff_ne_none

section
variable {t : State}

theorem afterCommand_of_fault (h : t.fault ≠ none) (clears : Bool) : t.afterCommand clears = t := by
  rw [State.afterCommand, if_pos ((faulted_iff t).2 h)]

theorem afterCommand_true (h : t.fault = none) :
    t.afterCommand true = { t with bus := { t.bus with commandBuffer := [] } } := by
  simp [State.afterCommand, (State.faulted_eq_false t).2 h]

theorem afterCommand_false (h : t.fault = none) : t.afterCommand false = { t with bus := t.bus.setReq true } := by
  simp [State.afterCommand, (State.faulted_eq_false t).2 h]

end

section
variable {s : State}

theorem deliverQueued_of_not_due (h : s.queuedDue ≠ true) : s.deliverQueued = s := by
  rw [State.deliverQueued, if_neg h]

/-- Queued bytes are handed over only where the statements say that a READ waits behind them (log 32). -/
theorem behindQueue_of_queuedDue (h : s.queuedDue = true) :
    s.params.queuedBytesFirst = true ∧ behindQueue s.bus s.now := by
  obtain ⟨hfirst, hread, hpast, hphase, hidle, hbuf, hq⟩ := (State.queuedDue_iff s).1 h
  exact ⟨hfirst, hread, hpast, hphase, ((handshakeIdle_iff s.bus).1 hidle).1, hbuf, hq⟩

/-- Outside the handshake's low half nothing is decoded and nothing handed over. -/
theorem commandDecode_of_not_idle (h : s.bus.handshakeIdle = false) : commandDecode s = .next s := by
  have hdue : s.queuedDue ≠ true := by simp [State.queuedDue, h]
  simp [commandDecode, h, deliverQueued_of_not_due hdue]

theorem commandDecode_of_nil (hbuf : s.bus.commandBuffer = []) : commandDecode s = .next s.deliverQueued := by
  simp [commandDecode, hbuf]

theorem commandDecode_of_error (h : s.bus.handshakeIdle = true) (hbuf : s.bus.commandBuffer ≠ []) {e : DecodeRefusal}
    (hdec : decodeCdb s.params.opcodes s.bus.commandBuffer = .error e) :
    commandDecode s = .next { s with bus := s.bus.setReq true } := by
  simp [commandDecode, h, hbuf, hdec]

/-- No byte is no instruction. -/
theorem ne_nil_of_decodeCdb_ok {o : Opcodes} {cdb : List Byte} {i : Instr} (h : decodeCdb o cdb = .ok i) : cdb ≠ [] := by
  rintro rfl
  cases h

theorem commandDecode_of_ok (h : s.bus.handshakeIdle = true) {i : Instr}
    (hdec : decodeCdb s.params.opcodes s.bus.commandBuffer = .ok i) {t : State} (hexec : exec i s = .next t) :
    commandDecode s = .next (t.afterCommand (clearsCommandBuffer i s.params)) := by
  simp [commandDecode, h, ne_nil_of_decodeCdb_ok hdec, hdec, hexec]

theorem commandHandler_of_not_handshake (h : s.bus.handshake = false) : commandHandler s = commandDecode s := by
  simp [commandHandler, h]

theorem commandHandler_of_full (h : bothHigh s.bus) (hlen : 10 ≤ s.bus.commandBuffer.length) :
    commandHandler s = .next (s.raise (.cdbOverflow s.bus.commandBuffer)) := by
  simp [commandHandler, (handshake_iff s.bus).2 h, Config.cdbMax, hlen]

/-- A byte is latched and, with ACK still high, not yet decoded. -/
theorem commandHandler_of_latch (h : bothHigh s.bus) (hlen : s.bus.commandBuffer.length < 10) :
    commandHandler s = .next { s with
      bus := { s.bus with commandBuffer := s.bus.commandBuffer ++ [s.bus.dataBits] }.setReq false } := by
  rw [commandHandler, if_pos ((handshake_iff s.bus).2 h), if_neg (by simpa [Config.cdbMax] using hlen)]
  exact commandDecode_of_not_idle (setReq_false_handshakeIdle h.2)

end

/-- Settles O19: the latch half by the handler's equations, the decode half by those of `commandDecode`. -/
theorem commandHandlerLatchesAndDecodes : Obligations.CommandHandlerLatchesAndDecodes := by
  unfold Obligations.CommandHandlerLatchesAndDecodes
  refine fun s => ⟨commandHandler_of_latch, fun h hlen hf => ?full, fun h e hbuf hdec => ?short, fun h i hdec => ?complete,
    fun h => ?between, fun h hbuf hwait => ?empty⟩
  case full => rw [commandHandler_of_full h hlen.ge, State.raise_of_fault_none _ _ hf]
  case short =>
    rw [commandHandler_of_not_handshake (handshake_of_bothLow h),
      commandDecode_of_error ((handshakeIdle_iff _).2 h) hbuf hdec, Bus.setReq]
  case complete =>
    obtain ⟨t, hexec⟩ := exec_answers i s
    have hrun : commandHandler s = .next (t.afterCommand (clearsCommandBuffer i s.params)) := by
      rw [commandHandler_of_not_handshake (handshake_of_bothLow h),
        commandDecode_of_ok ((handshakeIdle_iff _).2 h) hdec hexec]
    refine ⟨t, hexec, fun hf => ?_, fun hf hclears => ?_, fun hf hkeeps => ?_⟩
    · rw [hrun, afterCommand_of_fault hf]
    · rw [hrun, hclears, afterCommand_true hf]
    · rw [hrun, hkeeps, afterCommand_false hf, Bus.setReq]
  case between =>
    rw [commandHandler_of_not_handshake (handshake_of_ne h), commandDecode_of_not_idle (handshakeIdle_of_ne h)]
  case empty =>
    have hdue : s.queuedDue ≠ true := fun hd =>
      have ⟨hfirst, hbehind⟩ := behindQueue_of_queuedDue hd
      hwait hfirst hbehind
    rw [commandHandler_of_not_handshake (handshake_of_bothLow h), commandDecode_of_nil hbuf,
      deliverQueued_of_not_due hdue]

/-! ## One pass (40_bus_fsm.md R132) -/

section
variable {s : State}

theorem busPass_of_selecting (h : selecting s.bus) :
    busPass s = .next { s with bus := s.bus.setPhase .command } := by
  simp [busPass, h.1, h.2]

theorem busPass_of_attention (hsel : ¬ selecting s.bus) (hatn : s.bus.sig.atn = true) (hlow : bothLow s.bus) :
    busPass s = .next { s with bus := s.bus.setPhase .messageOut } := by
  rw [busPass, if_neg (by simpa using hsel), if_pos (by simp [hatn, (handshakeIdle_iff s.bus).2 hlow])]

/-- The handler of the active phase (40_bus_fsm.md R135 to R142). -/
def phaseHandler (s : State) : Answer :=
  match s.bus.phase with
  | .busFree => .next s
  | .command => commandHandler s
  | .dataIn => .next { s with bus := s.bus.dataInHandler }
  | .dataOut => .next { s with bus := s.bus.dataOutHandler }
  | .messageIn => .next { s with bus := s.bus.messageInHandler }
  | .messageOut => .next { s with bus := s.bus.messageOutHandler }
  | .status => .next { s with bus := s.bus.statusHandler }

theorem busPass_of_quiet (hsel : ¬ selecting s.bus) (hatn : ¬ (s.bus.sig.atn = true ∧ bothLow s.bus)) :
    busPass s = phaseHandler s := by
  have hidle : ¬ (s.bus.sig.atn && s.bus.handshakeIdle) = true := by
    rwa [Bool.and_eq_true, handshakeIdle_iff]
  rw [busPass, if_neg (by simpa using hsel), if_neg hidle]
  rfl

end

/-- Settles O22: the three ranks of a pass, then the handler of each phase. -/
theorem passPrecedence : Obligations.PassPrecedence := by
  unfold Obligations.PassPrecedence
  refine fun s => ⟨fun h => ?selection, fun hsel hatn hlow => ?attention, fun hsel hatn => ?handler⟩
  case selection => rw [busPass_of_selecting h, setPhase_eq_inPhase]; rfl
  case attention => rw [busPass_of_attention hsel hatn hlow, setPhase_eq_inPhase]; rfl
  case handler =>
    have hstub : s.bus.setPhase .busFree = inPhase s.bus .busFree false false false false false :=
      setPhase_eq_inPhase s.bus .busFree
    rw [busPass_of_quiet hsel hatn]
    refine ⟨fun hp => ?busFree, fun hp => ?command, fun hp => ?dataIn, fun hp => ?dataOut, fun hp => ?messageIn,
      fun hp => ?messageOut, fun hp => ?status⟩
    case dataOut => simp only [phaseHandler, hp, Bus.dataOutHandler, hstub]
    case messageOut => simp only [phaseHandler, hp, Bus.messageOutHandler, hstub]
    all_goals simp only [phaseHandler, hp]

/-! ## The settle loop (40_bus_fsm.md R131) -/

theorem settled_iff_not_changed (s t : State) : Bus.settled s.bus t.bus = true ↔ ¬ changed s t := by
  simp [Bus.settled, changed]

/-- A pass that changes nothing or faults is the loop's last. -/
theorem settle_of_stops {s t : State} (n : Nat) (hpass : busPass s = .next t) (h : ¬ changed s t ∨ t.fault ≠ none) :
    settle (n + 1) s = .next t := by
  rw [settle, hpass, andThen_next]
  rcases h with hsame | hf
  · rw [if_pos ((settled_iff_not_changed s t).2 hsame), ite_self]
  · rw [if_pos ((faulted_iff t).2 hf)]

/-- After any other pass the loop goes on with one pass fewer. -/
theorem settle_of_goes_on {s t : State} (n : Nat) (hpass : busPass s = .next t) (hchanged : changed s t)
    (hf : t.fault = none) : settle (n + 1) s = settle n t := by
  have hset : ¬ Bus.settled s.bus t.bus = true := fun h => (settled_iff_not_changed s t).1 h hchanged
  rw [settle, hpass, andThen_next, if_neg (by simp [State.faulted, hf]), if_neg hset]

/-- Along `k` linked passes that go on, `k` of the allowed passes are spent. -/
theorem settle_add_of_goes_on {p : Nat → State} {k : Nat} (hpass : ∀ j, j < k → busPass (p j) = .next (p (j + 1)))
    (hon : ∀ j, j < k → changed (p j) (p (j + 1)) ∧ (p (j + 1)).fault = none) (n : Nat) :
    settle (n + k) (p 0) = settle n (p k) := by
  induction k generalizing n with
  | zero => rfl
  | succ k ih =>
    obtain ⟨hchanged, hf⟩ := hon k k.lt_succ_self
    calc settle (n + (k + 1)) (p 0)
        = settle (n + 1 + k) (p 0) := by rw [Nat.add_right_comm, Nat.add_assoc]
      _ = settle (n + 1) (p k) := ih (fun j hj => hpass j (by omega)) (fun j hj => hon j (by omega)) (n + 1)
      _ = settle n (p (k + 1)) := settle_of_goes_on n (hpass k k.lt_succ_self) hchanged hf

/-- Settles O23: the passes that go on are spent one by one, then the loop stops, or none is left. -/
theorem settleLoopIsBounded : Obligations.SettleLoopIsBounded := by
  unfold Obligations.SettleLoopIsBounded
  refine ⟨fun p k hk hpass hon hstop => ?stops, fun p hpass hon => ?bound⟩
  case stops =>
    obtain ⟨n, hn⟩ : ∃ n, 64 = n + 1 + k := ⟨63 - k, by omega⟩
    rw [hn, settle_add_of_goes_on (fun j hj => hpass j hj.le) hon]
    exact settle_of_stops n (hpass k le_rfl) hstop
  case bound =>
    obtain ⟨-, hf⟩ := hon 63 (by omega)
    calc settle 64 (p 0) = settle 0 (p 64) := settle_add_of_goes_on hpass hon 0
      _ = .next ((p 64).raise (.noSettle (p 64).bus.phase (p 64).bus.sig)) := rfl
      _ = _ := by rw [State.raise_of_fault_none _ _ hf]

/-! ## The sector load (40_bus_fsm.md R141) -/

/-- What a load writes besides the call, in the words of the statements. -/
theorem afterLoad_eq_inDataIn (b : Bus) (bytes : List Byte) (left : Nat) :
    { b with dataIn := bytes }.afterLoad left = inDataIn { b with
      currentReadingSector := b.currentReadingSector + 1
      sectorsLeftToRead := left
      intDataTransferReady := true
      dataReadInProgress := if left = 0 then false else b.dataReadInProgress
      dataTransferWasDone := if left = 0 then true else b.dataTransferWasDone } bytes := by
  by_cases hleft : left = 0
  · simp only [Bus.afterLoad, if_pos hleft, setPhase_eq_write]
    rfl
  · simp only [Bus.afterLoad, if_neg hleft, setPhase_eq_write]
    rfl

/-- Settles O25: the three outcomes of a load, each hypothesis leaving one. -/
theorem sectorLoadQueuesOneSector : Obligations.SectorLoadQueuesOneSector := by
  unfold Obligations.SectorLoadQueuesOneSector
  intro s lba bytes
  have hdue : s.loadDue = true ↔ due s.bus s.now := State.loadDue_iff s
  obtain ⟨hd, hload⟩ | ⟨hd, hlen, hload⟩ | ⟨hd, hlen, hload⟩ := State.sectorLoad_cases s
  case inl =>
    have hnot : ¬ due s.bus s.now := fun h => by simp [hdue.2 h] at hd
    exact ⟨fun _ => hload, fun h => absurd h hnot, fun _ _ h => absurd h hnot⟩
  case inr.inl =>
    exact ⟨fun h => absurd (hdue.1 hd) h, fun _ hf _ => hload.trans (State.raise_of_fault_none _ _ hf),
      fun _ _ _ h => absurd h hlen⟩
  case inr.inr =>
    refine ⟨fun h => absurd (hdue.1 hd) h, fun _ _ h => absurd hlen h, fun left hleft _ _ => ?full⟩
    rw [hload, hleft, afterLoad_eq_inDataIn]
    rfl

/-! ## A step and an Advance (40_bus_fsm.md R130) -/

/-- A step performs the first of the host's operations. -/
theorem step_of_inputs {s : State} {op : HostOp} {rest : List HostOp} (h : s.inputs = op :: rest) :
    step s = perform op { s with inputs := rest } := by
  simp [step, nextOperation, h]

section
variable {s : State} {now : Nat}

theorem advance_of_fault (hf : s.fault ≠ none) : s.advance now = .next s := by
  rw [State.advance, if_pos ((faulted_iff s).2 hf)]

theorem advance_of_rst (hf : s.fault = none) (hrst : s.bus.sig.rst = true) :
    s.advance now = .next { s with now := now }.deviceReset := by
  simp [State.advance, (State.faulted_eq_false s).2 hf, hrst]

theorem advance_of_load_fault (hf : s.fault = none) (hrst : s.bus.sig.rst = false)
    (hload : { s with now := now }.sectorLoad.fault ≠ none) :
    s.advance now = .next { s with now := now }.sectorLoad := by
  simp [State.advance, (State.faulted_eq_false s).2 hf, hrst, (faulted_iff _).2 hload]

theorem advance_of_load (hf : s.fault = none) (hrst : s.bus.sig.rst = false)
    (hload : { s with now := now }.sectorLoad.fault = none) :
    s.advance now = settle 64 { s with now := now }.sectorLoad := by
  simp [State.advance, (State.faulted_eq_false s).2 hf, hrst, (State.faulted_eq_false _).2 hload, Config.settleBound]

end

/-- Settles O24: the tests of an Advance in their order, one equation each. -/
theorem advanceOrder : Obligations.AdvanceOrder := by
  unfold Obligations.AdvanceOrder
  intro s now rest hin u
  have hstep : step s = { s with inputs := rest }.advance now := step_of_inputs hin
  exact ⟨fun hf => hstep.trans (advance_of_fault hf), fun hf hrst => hstep.trans (advance_of_rst hf hrst),
    fun hf hrst hload => hstep.trans (advance_of_load_fault hf hrst hload),
    fun hf hrst hload => hstep.trans (advance_of_load hf hrst hload)⟩

/-! ## The host's writes and reads (40_bus_fsm.md R143, R144, R146) -/

/-- A line reads what was written to it, and every other line as before. -/
theorem get_set (g : Signals) (l m : Line) (v : Bool) : (g.set l v).get m = if m = l then v else g.get m := by
  cases l <;> cases m <;> rfl

/-- Settles O35: each operation is one write, or one answer. -/
theorem hostWritesAndReads : Obligations.HostWritesAndReads := by
  unfold Obligations.HostWritesAndReads
  exact ⟨get_set, fun s rest => ⟨fun _ _ => step_of_inputs, fun _ => step_of_inputs, step_of_inputs, step_of_inputs,
    step_of_inputs, step_of_inputs⟩⟩

end Sys2Proof.Proofs.BusFsm
end

section
/-! PROOFS. The statements of 41_scsi_commands.md that are settled here: TEST_UNIT_READY (R171), AUDIO_START_POS (R173),
AUDIO_END_POS (R174), PAUSE (R175), READ_SUBCODE_Q (R176) and the unrecognized opcodes (R178). -/

namespace Sys2Proof.Proofs.Commands
open Machine Claims
open BusFsm (enterGoodStatus_eq_inStatus setPhase_eq_write)

/-! ## The two ways a command ends (41_scsi_commands.md R171 to R178) -/

/-- Entering Status with GOOD writes the device only, in the words of the statements. -/
theorem enterGoodStatus_eq (s : State) : s.enterGoodStatus = { s with bus := inStatus s.bus } := by
  rw [State.enterGoodStatus, enterGoodStatus_eq_inStatus]

/-- An answer that fits the queue writes the device only, in the words of the statements. -/
theorem answer_eq_inDataIn {s : State} {bs : List Byte} (h : bs.length ≤ 2048) :
    s.answer bs = { s with bus := inDataIn s.bus bs } := by
  rw [State.answer_of_fits s bs h, setPhase_eq_write]
  rfl

/-! ## The commands that only enter Status (R171, R178) -/

theorem exec_testUnitReady (s : State) : exec .testUnitReady s = .next s.enterGoodStatus := rfl

theorem exec_unrecognized (op : Byte) (s : State) : exec (.unrecognized op) s = .next s.enterGoodStatus := rfl

/-- Settles O7: the command is the entry into Status and nothing else. -/
theorem testUnitReadyEntersStatus : Obligations.TestUnitReadyEntersStatus := by
  unfold Obligations.TestUnitReadyEntersStatus
  intro s
  rw [exec_testUnitReady, enterGoodStatus_eq]

/-- Settles O14: the effect is that of TEST_UNIT_READY; the clearing is the parameter's. -/
theorem unrecognizedOpcodeCompletes : Obligations.UnrecognizedOpcodeCompletes := by
  unfold Obligations.UnrecognizedOpcodeCompletes
  refine ⟨fun op s => ⟨?effect, fun p => ?clears⟩, ?byDefault⟩
  case effect => rw [exec_unrecognized, enterGoodStatus_eq]
  case clears => rfl
  case byDefault => rfl

/-! ## PAUSE (R175) -/

theorem exec_pause (s : State) : exec .pause s = .next s.audioPause.enterGoodStatus := rfl

/-- Settles O11: the player's pause, then the entry into Status. -/
theorem pauseCompletes : Obligations.PauseCompletes := by
  unfold Obligations.PauseCompletes
  intro s
  refine ⟨s.audioPause.audio, ?_⟩
  rw [exec_pause, enterGoodStatus_eq]
  rfl

/-! ## AUDIO_START_POS (R173) -/

section
variable {control : Byte} {addr : AudioAddr} {s : State}

theorem exec_audioStartPos_of_error {e : FaultRecord}
    (h : audioAddress s.disc.toc s.bus.audioStartLBA addr = .error e) :
    exec (.audioStartPos control addr) s = .next (s.raise e) := by
  simp only [exec, execAudioStartPos, h]

theorem exec_audioStartPos_of_ok {start : Int}
    (h : audioAddress s.disc.toc s.bus.audioStartLBA addr = .ok start) :
    exec (.audioStartPos control addr) s =
      .next ((s.called (audioAddressCalls s.disc.toc addr)).startAudio control start) := by
  simp only [exec, execAudioStartPos, h]

end

/-- All that starting to play writes: the start, the calls, the player and the Status phase. -/
theorem startAudio_writes (s : State) (control : Byte) (start : Int) : ∃ audio : Audio,
    s.startAudio control start = { s with
      bus := inStatus { s.bus with audioStartLBA := start }
      calls := s.calls ++ (if control = 0 then [.audioPlayFrom start, .audioPause] else [.audioPlayFrom start])
      audio := audio } := by
  by_cases hpause : control = 0
  · refine ⟨(s.audioPlayFrom start).audioPause.audio, ?_⟩
    simp only [State.startAudio, if_pos hpause, enterGoodStatus_eq, List.append_cons s.calls _ [.audioPause]]
    rfl
  · refine ⟨(s.audioPlayFrom start).audio, ?_⟩
    simp only [State.startAudio, if_neg hpause, enterGoodStatus_eq]
    rfl

/-- Settles O9: by whether the address decodes; then by whether the control byte asks for a pause. -/
theorem audioStartPosCompletes : Obligations.AudioStartPosCompletes := by
  unfold Obligations.AudioStartPosCompletes
  refine fun control addr s => ⟨fun e hf he => ?malformed, fun start hstart => ?decoded⟩
  case malformed => rw [exec_audioStartPos_of_error he, State.raise_of_fault_none s e hf]
  case decoded =>
    obtain ⟨audio, hwrites⟩ := startAudio_writes (s.called (audioAddressCalls s.disc.toc addr)) control start
    exact ⟨audio, (exec_audioStartPos_of_ok hstart).trans (congrArg _ hwrites)⟩

/-! ## AUDIO_END_POS (R174) -/

section
variable {control : Byte} {addr : AudioAddr} {s : State}

theorem exec_audioEndPos_of_error {e : FaultRecord}
    (h : audioAddress s.disc.toc s.bus.audioEndLBA addr = .error e) :
    exec (.audioEndPos control addr) s = .next (s.raise e) := by
  simp only [exec, execAudioEndPos, h]

theorem exec_audioEndPos_of_ok {stop : Int}
    (h : audioAddress s.disc.toc s.bus.audioEndLBA addr = .ok stop) :
    exec (.audioEndPos control addr) s =
      .next ({ s.called (audioAddressCalls s.disc.toc addr) with
        bus := { s.bus with audioEndLBA := stop } }.endAudioMode control).enterGoodStatus := by
  simp only [exec, execAudioEndPos, h]
  rfl

end

/-- The calls that play from the device's start to its end, in a play mode. -/
def playToEndCalls (b : Bus) (mode : PlayMode) : List Call :=
  [.audioPlayFrom b.audioStartLBA, .audioSetEndLBA b.audioEndLBA, .audioSetPlayMode mode]

/-- The calls that a control byte of AUDIO_END_POS selects. -/
def endAudioCalls (b : Bus) (control : Byte) : List Call :=
  if control = 0 then [.audioStop] else (endPlayMode control).elim [] (playToEndCalls b)

/-- The same, by the control byte's value. -/
theorem endAudioCalls_eq (b : Bus) (control : Byte) :
    endAudioCalls b control =
      if control = 0 then [.audioStop]
      else if control = 1 then playToEndCalls b .loopOnCompletion
      else if control = 2 then playToEndCalls b .callbackOnCompletion
      else if control = 3 then playToEndCalls b .stopOnCompletion
      else [] := by
  unfold endAudioCalls endPlayMode
  split_ifs <;> rfl

/-- All that the audio part of AUDIO_END_POS writes: the calls and the player. -/
theorem endAudioMode_writes (s : State) (control : Byte) : ∃ audio : Audio,
    s.endAudioMode control = { s with calls := s.calls ++ endAudioCalls s.bus control, audio := audio } := by
  by_cases hstop : control = 0
  · refine ⟨s.audioStop.audio, ?_⟩
    rw [State.endAudioMode, endAudioCalls, if_pos hstop, if_pos hstop]
    rfl
  · rw [State.endAudioMode, endAudioCalls, if_neg hstop, if_neg hstop]
    cases endPlayMode control with
    | none => exact ⟨s.audio, by simp⟩
    | some mode =>
      refine ⟨((s.audioPlayFrom s.bus.audioStartLBA).audioSetEnd s.bus.audioEndLBA mode).audio, ?_⟩
      rw [Option.elim_some, playToEndCalls, List.append_cons]
      rfl

/-- Settles O10: by whether the address decodes; the calls are those of the control byte at the device's new end. -/
theorem audioEndPosCompletes : Obligations.AudioEndPosCompletes := by
  unfold Obligations.AudioEndPosCompletes
  refine fun control addr s => ⟨fun e hf he => ?malformed, fun stop hstop => ?decoded⟩
  case malformed => rw [exec_audioEndPos_of_error he, State.raise_of_fault_none s e hf]
  case decoded =>
    obtain ⟨audio, hwrites⟩ := endAudioMode_writes
      { s.called (audioAddressCalls s.disc.toc addr) with bus := { s.bus with audioEndLBA := stop } } control
    refine ⟨audio, ?_⟩
    rw [exec_audioEndPos_of_ok hstop, hwrites, enterGoodStatus_eq, endAudioCalls_eq]
    rfl

/-! ## READ_SUBCODE_Q (R176) -/

theorem exec_readSubcodeQ (s : State) :
    exec .readSubcodeQ s =
      .next ((s.called (subcodeCalls s.audio s.bus.currentReadingSector)).answer
        (playStateCode s.audio.mode ::
          recordBytes (s.disc.subchannelQ (subcodeLba s.audio s.bus.currentReadingSector)))) := rfl

/-- The calls of READ_SUBCODE_Q: the player's sector is asked for only where it is read. -/
theorem subcodeCalls_eq (audio : Audio) (cursor : Int) :
    subcodeCalls audio cursor =
      if audio.mode = .stopped then [.audioMode, .subcodeRead (subcodeLba audio cursor)]
      else [.audioMode, .audioCurrentSector, .subcodeRead (subcodeLba audio cursor)] := by
  unfold subcodeCalls
  split_ifs <;> rfl

/-- Settles O12: one byte and a record of nine fit the queue, so the answer is the entry into DataIn. -/
theorem readSubcodeQAnswers : Obligations.ReadSubcodeQAnswers := by
  unfold Obligations.ReadSubcodeQAnswers
  intro s
  have hfits : (playStateCode s.audio.mode ::
      recordBytes (s.disc.subchannelQ (subcodeLba s.audio s.bus.currentReadingSector))).length ≤ 2048 := by simp
  rw [exec_readSubcodeQ, answer_eq_inDataIn hfits, subcodeCalls_eq]
  cases hmode : s.audio.mode <;> simp [hmode, subcodeLba, playStateCode, recordBytes]

end Sys2Proof.Proofs.Commands
end

section
/-! PROOFS. The statements of 42_codecs.md that are settled here: BCD decoding and encoding (R210 to R212). -/

namespace Sys2Proof.Proofs.Codecs
open Machine Claims

/-! ## BCD (42_codecs.md R210 to R212) -/

theorem validBcd_iff (b : Byte) : validBcd b ↔ highNibble b ≤ 9 ∧ lowNibble b ≤ 9 := Iff.rfl

theorem bcdToBin_of_validBcd {b : Byte} (h : validBcd b) : bcdToBin b = .ok (10 * (b.toNat / 16) + b.toNat % 16) := by
  obtain ⟨hhigh, hlow⟩ := (validBcd_iff b).mp h
  obtain ⟨-, -, hok⟩ | ⟨hbad, -⟩ := bcdToBin_cases b
  · exact hok
  · omega

theorem bcdToBin_of_not_validBcd {b : Byte} (h : ¬ validBcd b) : bcdToBin b = .error (.badBcd b) := by
  obtain ⟨hhigh, hlow, -⟩ | ⟨-, herr⟩ := bcdToBin_cases b
  · exact absurd ((validBcd_iff b).mpr ⟨hhigh, hlow⟩) h
  · exact herr

theorem bcdByte_eq_bcdOf (n : Nat) : bcdByte n = bcdOf n := rfl

/-- The nibbles of an encoded value are its two decimal digits. -/
theorem bcdOf_nibbles {n : Nat} (h : n ≤ 99) : (bcdOf n).toNat / 16 = n / 10 ∧ (bcdOf n).toNat % 16 = n % 10 := by
  rw [← bcdByte_eq_bcdOf, bcdByte_toNat h]
  omega

theorem validBcd_bcdOf {n : Nat} (h : n ≤ 99) : validBcd (bcdOf n) := by
  obtain ⟨hhigh, hlow⟩ := bcdOf_nibbles h
  rw [validBcd, hhigh, hlow]
  omega

theorem bcdToBin_bcdOf {n : Nat} (h : n ≤ 99) : bcdToBin (bcdOf n) = .ok n := by
  obtain ⟨hhigh, hlow⟩ := bcdOf_nibbles h
  rw [bcdToBin_of_validBcd (validBcd_bcdOf h), hhigh, hlow, Nat.div_add_mod]

theorem binToBcd_of_le {n : Nat} (h : n ≤ 99) : binToBcd n = .ok (bcdOf n) := by
  obtain ⟨-, hok⟩ | ⟨hlt, -⟩ := binToBcd_cases n
  · rw [hok, bcdByte_eq_bcdOf]
  · omega

theorem binToBcd_of_lt {n : Nat} (h : 99 < n) : binToBcd n = .error (.bcdRange n) := by
  obtain ⟨hle, -⟩ | ⟨-, herr⟩ := binToBcd_cases n
  · omega
  · exact herr

/-- Settles O54: decoding by whether both nibbles are digits, encoding by whether the number has two digits; an encoded
number's nibbles are its digits, so it decodes to itself. -/
theorem bcdCodecIsExact : Obligations.BcdCodecIsExact := by
  unfold Obligations.BcdCodecIsExact
  exact ⟨fun _ => ⟨bcdToBin_of_validBcd, bcdToBin_of_not_validBcd⟩,
    fun _ => ⟨fun h => ⟨binToBcd_of_le h, bcdToBin_bcdOf h⟩, binToBcd_of_lt⟩⟩

end Sys2Proof.Proofs.Codecs
end

section
/-! PROOFS. Reading a frame that was written in part (20_memory.md R67), and the subcode interleave with its inverse
(42_codecs.md R223, R224). -/

namespace Sys2Proof.Proofs.FrameBytes
open Machine

/-! ## Frame primitives (20_memory.md R67) -/

/-- Two frames of one length that agree on every byte outside `lo .. hi - 1`. -/
structure AgreeOutside (lo hi : Nat) (g f : List Byte) : Prop where
  length_eq : g.length = f.length
  byte_eq : ∀ i, i < lo ∨ hi ≤ i → g[i]? = f[i]?

section
variable {lo hi : Nat} {f g : List Byte}

theorem AgreeOutside.refl (lo hi : Nat) (f : List Byte) : AgreeOutside lo hi f f := ⟨rfl, fun _ _ => rfl⟩

theorem AgreeOutside.trans {h : List Byte} (hhg : AgreeOutside lo hi h g) (hgf : AgreeOutside lo hi g f) :
    AgreeOutside lo hi h f :=
  ⟨hhg.length_eq.trans hgf.length_eq, fun i hi => (hhg.byte_eq i hi).trans (hgf.byte_eq i hi)⟩

theorem AgreeOutside.mono {lo' hi' : Nat} (hgf : AgreeOutside lo hi g f) (hlo : lo' ≤ lo) (hhi : hi ≤ hi') :
    AgreeOutside lo' hi' g f :=
  ⟨hgf.length_eq, fun i hi => hgf.byte_eq i (by omega)⟩

/-- Bytes outside read the same in both. -/
theorem AgreeOutside.memRead_eq (hgf : AgreeOutside lo hi g f) {k n : Nat} (hout : k + n ≤ lo ∨ hi ≤ k) :
    memRead g k n = memRead f k n := by
  refine List.ext_getElem? fun i => ?_
  by_cases hi : i < n
  · rw [memRead_getElem? hi, memRead_getElem? hi, hgf.byte_eq (k + i) (by omega)]
  · rw [memRead, memRead, List.getElem?_take_eq_none (by omega), List.getElem?_take_eq_none (by omega)]

/-- A further write between `lo` and `hi` is not seen outside. -/
theorem AgreeOutside.memWrite (hgf : AgreeOutside lo hi g f) {k : Nat} {v : List Byte} (hlo : lo ≤ k)
    (hhi : k + v.length ≤ hi) (hlen : hi ≤ f.length) : AgreeOutside lo hi (memWrite g k v) f := by
  have hin : k + v.length ≤ g.length := by rw [hgf.length_eq]; omega
  exact .trans ⟨memWrite_length hin, fun _ hi => memWrite_out hin (by omega)⟩ hgf

/-- An ECC block writes its two parity rows only (42_codecs.md R218). -/
theorem AgreeOutside.eccBlock (hgf : AgreeOutside lo hi g f) {majorCount minorCount majorMult minorInc dest : Nat}
    (hlo : lo ≤ dest) (hhi : dest + 2 * majorCount ≤ hi) (hlen : hi ≤ f.length) :
    AgreeOutside lo hi (eccBlock g majorCount minorCount majorMult minorInc dest) f :=
  hgf.memWrite hlo (by simp; omega) hlen

end

/-- A write over the middle part of a frame replaces that part. -/
theorem memWrite_append {a b v : List Byte} (c : List Byte) {k : Nat} (hk : a.length = k) (hv : v.length = b.length) :
    memWrite (a ++ (b ++ c)) k v = a ++ (v ++ c) := by
  subst hk
  simp [memWrite, hv]

/-- Two writes one after the other are one write of both values. -/
theorem memWrite_memWrite_append {f a b : List Byte} {k : Nat} (hk : k ≤ f.length) :
    memWrite (memWrite f k a) (k + a.length) b = memWrite f k (a ++ b) := by
  have hlen : (f.take k).length = k := List.length_take_of_le hk
  have htake : (memWrite f k a).take (k + a.length) = f.take k ++ a := by
    rw [memWrite, ← List.append_assoc, List.take_left' (by rw [List.length_append, hlen])]
  have hdrop : (memWrite f k a).drop (k + a.length + b.length) = f.drop (k + (a ++ b).length) := by
    rw [memWrite, ← List.append_assoc, ← List.drop_drop, List.drop_left' (by rw [List.length_append, hlen]),
      List.drop_drop, List.length_append, Nat.add_assoc]
  conv_lhs => rw [memWrite, htake, hdrop, List.append_assoc]
  rw [memWrite, List.append_assoc]

theorem memRead_append_left {m : List Byte} (r : List Byte) {k n : Nat} (h : k + n ≤ m.length) :
    memRead (m ++ r) k n = memRead m k n := by
  rw [memRead, List.drop_append_of_le_length (by omega), List.take_append_of_le_length (by simp; omega), memRead]

theorem memRead_append_right {m r : List Byte} {k n : Nat} (hm : m.length = k) (hr : r.length = n) :
    memRead (m ++ r) k n = r := by
  rw [memRead, List.drop_left' hm, List.take_of_length_le hr.le]

/-- Reading a part of the bytes read from a buffer is reading that part of the buffer. -/
theorem memRead_readBytes (m : Memory) {a k n len : Nat} (h : k + n ≤ len) :
    memRead (m.readBytes a len) k n = m.readBytes (a + k) n := by
  refine List.ext_getElem? fun i => ?_
  by_cases hi : i < n
  · rw [memRead_getElem? hi]
    simp [Memory.readBytes, hi, show k + i < len by omega, Nat.add_assoc]
  · rw [memRead, List.getElem?_take_eq_none (by omega), List.getElem?_eq_none (by simp; omega)]

/-! ## Interleave (42_codecs.md R223, R224) -/

/-- A bit of a union of words is the bit of one of them. -/
theorem getLsbD_foldl_or (w : Nat → Byte) (n i : Nat) :
    ((List.range n).foldl (fun o c => o ||| w c) 0#8).getLsbD i = true ↔ ∃ c < n, (w c).getLsbD i = true := by
  induction n with
  | zero => simp
  | succ n ih =>
    rw [List.range_succ, List.foldl_append, List.foldl_cons, List.foldl_nil, BitVec.getLsbD_or, Bool.or_eq_true, ih]
    simp only [Nat.lt_succ_iff_lt_or_eq, or_and_right, exists_or, exists_eq_left]

/-- One bit of a byte, moved to another place, is seen there and nowhere else. -/
theorem getLsbD_movedBit (x : Byte) (place c t : Nat) (hc : c < 8) (ht : t < 8) :
    (((x >>> place) &&& 1#8) <<< (7 - c)).getLsbD (7 - t) = true ↔ c = t ∧ x.getLsbD place = true := by
  have hplace : 7 - t < 7 - c ∨ 7 - t - (7 - c) = 0 ∧ c = t ∨ 0 < 7 - t - (7 - c) ∧ c ≠ t := by omega
  simp only [BitVec.getLsbD_shiftLeft, BitVec.getLsbD_and, BitVec.getLsbD_ushiftRight, BitVec.getLsbD_one]
  obtain hbelow | ⟨hat, rfl⟩ | ⟨habove, hne⟩ := hplace
  · simp [hbelow]; omega
  · simp; omega
  · simp [hne, habove.ne']

/-- Eight bits put together, most significant first: what both maps do with a byte. -/
theorem getLsbD_packedBits (x : Nat → Byte) (place : Nat → Nat) {c : Nat} (hc : c < 8) :
    ((List.range 8).foldl (fun o c => o ||| (((x c >>> place c) &&& 1#8) <<< (7 - c))) 0#8).getLsbD (7 - c) =
      (x c).getLsbD (place c) := by
  rw [Bool.eq_iff_iff, getLsbD_foldl_or]
  constructor
  · rintro ⟨c', hc', hbit⟩
    obtain ⟨rfl, hx⟩ := (getLsbD_movedBit _ _ _ _ hc' hc).1 hbit
    exact hx
  · exact fun hx => ⟨c, hc, (getLsbD_movedBit _ _ _ _ hc hc).2 ⟨rfl, hx⟩⟩

theorem interleave_bit (d : List Byte) {j c : Nat} (hj : j < 96) (hc : c < 8) :
    ((interleave d).getD j 0).getLsbD (7 - c) = (d.getD (12 * c + j / 8) 0).getLsbD (7 - j % 8) := by
  have hbyte : (interleave d).getD j 0 = interleaveByte d j := by simp [interleave, Config.subcodeBytes, hj]
  rw [hbyte]
  exact getLsbD_packedBits (fun c => d.getD (12 * c + j / 8) 0) (fun _ => 7 - j % 8) hc

theorem deinterleave_bit (o : List Byte) {i t : Nat} (hi : i < 96) (ht : t < 8) :
    ((deinterleave o).getD i 0).getLsbD (7 - t) = (o.getD (8 * (i % 12) + t) 0).getLsbD (7 - i / 12) := by
  have hbyte : (deinterleave o).getD i 0 = deinterleaveByte o i := by simp [deinterleave, Config.subcodeBytes, hi]
  rw [hbyte]
  exact getLsbD_packedBits (fun t => o.getD (8 * (i % 12) + t) 0) (fun _ => 7 - i / 12) ht

/-- Two lists of 96 bytes are equal when all their bits are, counted from the most significant one. -/
theorem ext_bits {d e : List Byte} (hd : d.length = 96) (he : e.length = 96)
    (h : ∀ i < 96, ∀ t < 8, (d.getD i 0).getLsbD (7 - t) = (e.getD i 0).getLsbD (7 - t)) : d = e := by
  refine List.ext_getElem (hd.trans he.symm) fun i hi hi' => BitVec.eq_of_getLsbD_eq fun b hb => ?_
  have hbit := h i (hd ▸ hi) (7 - b) (by omega)
  rw [List.getD_eq_getElem d 0 hi, List.getD_eq_getElem e 0 hi', Nat.sub_sub_self (by omega)] at hbit
  exact hbit

/-- The interleave loses nothing: bit 7 − t of byte i is found again at byte 8(i mod 12) + t, bit 7 − i/12. -/
theorem deinterleave_interleave {d : List Byte} (hd : d.length = 96) : deinterleave (interleave d) = d := by
  refine ext_bits (deinterleave_length _) hd fun i hi t ht => ?_
  rw [deinterleave_bit _ hi ht, interleave_bit d (by omega) (by omega),
    show 12 * (i / 12) + (8 * (i % 12) + t) / 8 = i by omega, show (8 * (i % 12) + t) % 8 = t by omega]

end Sys2Proof.Proofs.FrameBytes
end

section
/-! PROOFS. The statements of 43_sector_synth.md that are settled here: the checks of a job (R250), the user data and the
header of the 2048-byte variants (R252, R253), the gap variants (R255, R258) and the subcode region (R259 to R262). -/

namespace Sys2Proof.Proofs.Synth
open Machine Claims
open BusFsm (step_of_inputs faulted_iff)
open FrameBytes

/-! ## The checks of a job (R250) -/

theorem lbaToMsf_of_hasTime {lba : Int} (h : hasTime lba) :
    lbaToMsf lba = .ok ⟨(lba + 150).toNat / 4500, (lba + 150).toNat / 75 % 60, (lba + 150).toNat % 75⟩ := by
  rw [lbaToMsf, if_neg (by omega)]

theorem lbaToMsf_of_not_hasTime {lba : Int} (h : ¬ hasTime lba) : lbaToMsf lba = .error (.msfRange lba) := by
  rw [lbaToMsf, if_pos (by omega)]

theorem is2048Variant_iff (variant : Nat) : is2048Variant variant = true ↔ variant < 2 := by
  rw [is2048Variant, Bool.or_eq_true, decide_eq_true_iff, decide_eq_true_iff]
  omega

/-- The model's checks are those of the statements, in the same order. -/
theorem synthValidate_eq_refusal (variant : Nat) (job : SynthJob) (destLen : Nat) :
    synthValidate variant job destLen = (refusal variant job destLen).elim (.ok ()) .error := by
  unfold synthValidate refusal
  simp only [is2048Variant_iff, Config.frameBytes, partBits, variantTags, SynthJob.has, Part.bit]
  by_cases htime : hasTime job.lba
  · simp only [lbaToMsf_of_hasTime htime, eq_false (not_not_intro htime), and_false, if_false, ite_self]
    split_ifs <;> rfl
  · simp only [lbaToMsf_of_not_hasTime htime, eq_true htime, and_true]
    split_ifs <;> rfl

theorem synthValidate_of_refusal {variant : Nat} {job : SynthJob} {destLen : Nat} {e : FaultRecord}
    (h : refusal variant job destLen = some e) : synthValidate variant job destLen = .error e := by
  rw [synthValidate_eq_refusal, h, Option.elim_some]

theorem synthValidate_of_no_refusal {variant : Nat} {job : SynthJob} {destLen : Nat}
    (h : refusal variant job destLen = none) : synthValidate variant job destLen = .ok () := by
  rw [synthValidate_eq_refusal, h, Option.elim_none]

/-- A requested header has a time, else the last check fails (R250, R253). -/
theorem hasTime_of_no_refusal {variant : Nat} {job : SynthJob} {destLen : Nat} (hv : variant < 2) (hheader : header job)
    (h : refusal variant job destLen = none) : hasTime job.lba := by
  by_contra htime
  have hlast : variant < 2 ∧ header job ∧ ¬ hasTime job.lba := ⟨hv, hheader, htime⟩
  unfold refusal at h
  rw [if_pos hlast] at h
  split_ifs at h

/-! ## The four variants as one job (R251) -/

/-- The main-channel source of each variant (R252, R255, R257, R258). -/
def mainChannel (variant : Nat) (job : SynthJob) : MainChannel :=
  if variant < 2 then ⟨job.has .user2048, 2048, decide (variant = 1)⟩ else ⟨wantsRaw job, 2352, decide (variant = 3)⟩

/-- The main-channel step of each variant (R252, R257). -/
def mainStep (variant : Nat) (lsbFirst : Bool) (job : SynthJob) : Option (List Byte) → List Byte → List Byte :=
  if variant < 2 then main2048 lsbFirst job else main2352

theorem exec_synthInstr {variant : Nat} (h : variant < 4) (job : SynthJob) (s : State) :
    exec (synthInstr variant job) s =
      .next (s.synth variant job (mainChannel variant job) (mainStep variant s.params.edcLsbFirst job)) := by
  interval_cases variant <;> rfl

theorem decodeJob_of_lt {d : JobDescriptor} (h : d.variant < 4) : decodeJob d = .ok (synthInstr d.variant d.job) := by
  obtain ⟨variant, job⟩ := d
  dsimp only at h
  interval_cases variant <;> rfl

theorem decodeJob_of_le {d : JobDescriptor} (h : 4 ≤ d.variant) : decodeJob d = .error (.unknownVariant d.variant) := by
  rw [decodeJob, if_neg (by omega), if_neg (by omega), if_neg (by omega), if_neg (by omega)]

/-- A job is one of the four variants' jobs, or one whose tag is unknown. -/
theorem synthOp_cases (d : JobDescriptor) (s : State) :
    (∃ c main, synthOp d s = .next (s.synth d.variant d.job c main)) ∨
      (4 ≤ d.variant ∧ synthOp d s = .next (s.synthUnknown d)) := by
  by_cases h : d.variant < 4
  · exact .inl ⟨_, _, by rw [synthOp, decodeJob_of_lt h]; exact exec_synthInstr h d.job s⟩
  · exact .inr ⟨by omega, by rw [synthOp, decodeJob_of_le (by omega)]⟩

theorem synthOp_of_fault {s : State} (hf : s.fault ≠ none) (d : JobDescriptor) : synthOp d s = .next s := by
  have hfaulted : s.faulted = true := (faulted_iff s).2 hf
  obtain ⟨c, main, hop⟩ | ⟨-, hop⟩ := synthOp_cases d s
  · rw [hop, State.synth, if_pos hfaulted]
  · rw [hop, State.synthUnknown, if_pos hfaulted]

theorem synthOp_of_refusal {s : State} (hf : s.fault = none) {d : JobDescriptor} {e : FaultRecord}
    (he : refusal d.variant d.job s.destLen = some e) : synthOp d s = .next { s with fault := some e } := by
  have hfaulted : ¬ s.faulted = true := fun h => (faulted_iff s).1 h hf
  have hcheck := synthValidate_of_refusal he
  rw [← State.raise_of_fault_none s e hf]
  obtain ⟨c, main, hop⟩ | ⟨-, hop⟩ := synthOp_cases d s
  · rw [hop, State.synth, if_neg hfaulted, hcheck]
  · rw [hop, State.synthUnknown, if_neg hfaulted, hcheck]

/-- Settles O42: a step performs the job, which the fault test or the first failing check stops. -/
theorem synthChecksInOrder : Obligations.SynthChecksInOrder := by
  unfold Obligations.SynthChecksInOrder
  intro s d rest hinputs
  rw [step_of_inputs hinputs]
  exact ⟨fun hf => synthOp_of_fault (s := { s with inputs := rest }) hf d,
    fun hf e he => synthOp_of_refusal (s := { s with inputs := rest }) hf he⟩

/-! ## The steps on the main channel (R252 to R254, R257) -/

section
variable {job : SynthJob} {f : List Byte}

/-- The sync pattern, the time and the mode are written as one piece (R253). -/
theorem header2048_of_header (hheader : header job) (htime : hasTime job.lba) :
    header2048 job f = memWrite f 0 (syncPattern ++ (timeBytes job.lba ++ [BitVec.ofNat 8 job.mode])) := by
  rw [header2048, if_pos (show job.has .header16 = true from hheader), lbaToMsf_of_hasTime htime]
  exact memWrite_memWrite_append (Nat.zero_le _)

theorem header2048_of_not_header (h : ¬ header job) : header2048 job f = f := if_neg h

theorem header2048_agreeOutside (htime : header job → hasTime job.lba) (hlen : f.length = 2448) :
    AgreeOutside 0 16 (header2048 job f) f := by
  by_cases hheader : header job
  · rw [header2048_of_header hheader (htime hheader)]
    exact (AgreeOutside.refl 0 16 f).memWrite le_rfl (by simp [syncPattern, timeBytes]) (by omega)
  · rw [header2048_of_not_header hheader]
    exact .refl 0 16 f

theorem ecm2048_of_ecm (lsbFirst : Bool) (h : ecm job) :
    ecm2048 lsbFirst job f = eccQ (eccP (memWrite (memWrite f 2064 (edcBytes lsbFirst (edc (memRead f 0 2064)))) 2068
      (List.replicate 8 0x00))) := if_pos h

theorem ecm2048_of_not_ecm (lsbFirst : Bool) (h : ¬ ecm job) : ecm2048 lsbFirst job f = f := if_neg h

/-- EDC, reserved bytes and ECC lie behind the user data (R254). -/
theorem ecm2048_agreeOutside (lsbFirst : Bool) (hlen : f.length = 2448) :
    AgreeOutside 2064 2352 (ecm2048 lsbFirst job f) f := by
  by_cases hecm : ecm job
  · rw [ecm2048_of_ecm lsbFirst hecm]
    have hedc : AgreeOutside 2064 2352 (memWrite f 2064 (edcBytes lsbFirst (edc (memRead f 0 2064)))) f :=
      (AgreeOutside.refl 2064 2352 f).memWrite le_rfl (by simp) (by omega)
    have hreserved := hedc.memWrite (k := 2068) (v := List.replicate 8 0x00) (by omega) (by simp) (by omega)
    exact (hreserved.eccBlock (by omega) (by omega) (by omega)).eccBlock (by omega) (by omega) (by omega)
  · rw [ecm2048_of_not_ecm lsbFirst hecm]
    exact .refl 2064 2352 f

/-- The user step, if requested (R252). -/
def writeUser (user : Option (List Byte)) (f : List Byte) : List Byte := user.elim f (memWrite f 16)

theorem main2048_eq (lsbFirst : Bool) (user : Option (List Byte)) :
    main2048 lsbFirst job user f = ecm2048 lsbFirst job (header2048 job (writeUser user f)) := by
  cases user <;> rfl

/-- The user data lies between the header and the EDC (R252). -/
theorem writeUser_agreeOutside {user : Option (List Byte)} (huser : ∀ u, user = some u → u.length = 2048)
    (hlen : f.length = 2448) : AgreeOutside 16 2064 (writeUser user f) f := by
  cases user with
  | none => exact .refl 16 2064 f
  | some u =>
    have hu := huser u rfl
    exact (AgreeOutside.refl 16 2064 f).memWrite le_rfl (by omega) (by omega)

theorem main2048_agreeOutside (lsbFirst : Bool) {user : Option (List Byte)}
    (huser : ∀ u, user = some u → u.length = 2048) (htime : header job → hasTime job.lba) (hlen : f.length = 2448) :
    AgreeOutside 0 2352 (main2048 lsbFirst job user f) f := by
  rw [main2048_eq]
  have hwrite := writeUser_agreeOutside huser hlen
  have hheader := header2048_agreeOutside htime (hwrite.length_eq.trans hlen)
  have hecm := ecm2048_agreeOutside (job := job) lsbFirst (hheader.length_eq.trans (hwrite.length_eq.trans hlen))
  exact (hecm.mono (by omega) le_rfl).trans
    ((hheader.mono le_rfl (by omega)).trans (hwrite.mono (by omega) (by omega)))

theorem main2352_agreeOutside {raw : Option (List Byte)} (hraw : ∀ r, raw = some r → r.length = 2352)
    (hlen : f.length = 2448) : AgreeOutside 0 2352 (main2352 raw f) f := by
  cases raw with
  | none => exact .refl 0 2352 f
  | some r =>
    have hr := hraw r rfl
    exact (AgreeOutside.refl 0 2352 f).memWrite le_rfl (by omega) (by omega)

/-- The later steps leave the user data as it was written. -/
theorem memRead_main2048_user (lsbFirst : Bool) {u : List Byte} (hu : u.length = 2048)
    (htime : header job → hasTime job.lba) (hlen : f.length = 2448) :
    memRead (main2048 lsbFirst job (some u) f) 16 2048 = u := by
  have hwrite := writeUser_agreeOutside (user := some u) (by rintro _ ⟨⟩; exact hu) hlen
  have hheader := header2048_agreeOutside htime (hwrite.length_eq.trans hlen)
  have hecm := ecm2048_agreeOutside (job := job) lsbFirst (hheader.length_eq.trans (hwrite.length_eq.trans hlen))
  rw [main2048_eq, hecm.memRead_eq (.inl (by omega)), hheader.memRead_eq (.inr le_rfl), ← hu]
  exact memRead_memWrite (by omega)

/-- The later step leaves the header as it was written. -/
theorem memRead_main2048_header (lsbFirst : Bool) {user : Option (List Byte)}
    (huser : ∀ u, user = some u → u.length = 2048) (hheader : header job) (htime : hasTime job.lba)
    (hlen : f.length = 2448) :
    memRead (main2048 lsbFirst job user f) 0 16 =
      syncPattern ++ (timeBytes job.lba ++ [BitVec.ofNat 8 job.mode]) := by
  have hwrite := writeUser_agreeOutside huser hlen
  have hagree := header2048_agreeOutside (fun _ => htime) (hwrite.length_eq.trans hlen)
  have hecm := ecm2048_agreeOutside (job := job) lsbFirst (hagree.length_eq.trans (hwrite.length_eq.trans hlen))
  rw [main2048_eq, hecm.memRead_eq (.inl (by omega)), header2048_of_header hheader htime]
  exact memRead_memWrite (k := 0) (v := syncPattern ++ (timeBytes job.lba ++ [BitVec.ofNat 8 job.mode]))
    (by rw [hwrite.length_eq, hlen]; simp [syncPattern, timeBytes])

end

/-! ## The subcode step (R259 to R262) -/

theorem wantsSubcode_iff (job : SynthJob) : wantsSubcode job = true ↔ anySub job := by
  simp only [wantsSubcode, Bool.or_eq_true, or_assoc]
  rfl

/-- What becomes of the 96 bytes of the subcode region, in the words of the statements. -/
def subcodeRegion (job : SynthJob) (old : List Byte) : List Byte :=
  if anySub job then (if deint job then channels job old else interleave (channels job old)) else old

/-- The region as the rows of its channels: P, Q, and R to W. -/
theorem exists_channel_rows {r : List Byte} (hr : r.length = 96) :
    ∃ p q w, r = p ++ (q ++ w) ∧ p.length = 12 ∧ q.length = 12 ∧ w.length = 72 := by
  refine ⟨r.take 12, (r.drop 12).take 12, (r.drop 12).drop 12, ?_, ?_, ?_, ?_⟩
  · rw [List.take_append_drop, List.take_append_drop]
  all_goals simp [hr]

section
variable (job : SynthJob) {m p q w : List Byte}

theorem subcodeP_append (hm : m.length = 2352) (hp : p.length = 12) (r : List Byte) :
    subcodeP job (m ++ (p ++ r)) =
      m ++ ((if chanP job then List.replicate 12 (if job.pause then 0xFF else 0x00) else p) ++ r) := by
  by_cases h : chanP job
  · rw [subcodeP, if_pos (show job.has .subchannelP = true from h), if_pos h]
    exact memWrite_append r hm (by rw [hp, List.length_replicate])
  · rw [subcodeP, if_neg (show ¬ job.has .subchannelP = true from h), if_neg h]

theorem subcodeQ_append (hm : m.length = 2352) (hp : p.length = 12) (hq : q.length = 12) (w : List Byte) :
    subcodeQ job (m ++ (p ++ (q ++ w))) = m ++ (p ++ ((if chanQ job then qBytes job.q else q) ++ w)) := by
  by_cases h : chanQ job
  · rw [subcodeQ, if_pos (show job.has .subchannelQ = true from h), if_pos h, ← List.append_assoc m,
      memWrite_append w (by rw [List.length_append, hm, hp]) (by rw [qBytes_length, hq]), List.append_assoc]
  · rw [subcodeQ, if_neg (show ¬ job.has .subchannelQ = true from h), if_neg h]

theorem subcodeRW_append (hm : m.length = 2352) (hp : p.length = 12) (hq : q.length = 12) (hw : w.length = 72) :
    subcodeRW job (m ++ (p ++ (q ++ w))) = m ++ (p ++ (q ++ if chanRW job then List.replicate 72 0x00 else w)) := by
  by_cases h : chanRW job
  · have hwrite := memWrite_append (a := m ++ (p ++ q)) (b := w) (v := List.replicate 72 0x00) (k := 2376) []
      (by simp [hm, hp, hq]) (by rw [hw, List.length_replicate])
    rw [subcodeRW, if_pos (show job.has .subchannelRW = true from h), if_pos h]
    simpa only [List.append_nil, List.append_assoc] using hwrite
  · rw [subcodeRW, if_neg (show ¬ job.has .subchannelRW = true from h), if_neg h]

end

theorem channels_rows (job : SynthJob) {p q : List Byte} (w : List Byte) (hp : p.length = 12) (hq : q.length = 12) :
    channels job (p ++ (q ++ w)) =
      (if chanP job then List.replicate 12 (if job.pause then 0xFF else 0x00) else p) ++
      ((if chanQ job then qBytes job.q else q) ++ if chanRW job then List.replicate 72 0x00 else w) := by
  have hdrop : (p ++ (q ++ w)).drop 24 = w := by
    rw [← List.append_assoc, List.drop_left' (by rw [List.length_append, hp, hq])]
  rw [channels, List.take_left' hp, List.drop_left' hp, List.take_left' hq, hdrop, List.append_assoc]

section
variable (job : SynthJob) {m r : List Byte}

/-- The channels' steps on a frame are those of the statements on its last 96 bytes. -/
theorem subcodeChannels_append (hm : m.length = 2352) (hr : r.length = 96) :
    subcodeRW job (subcodeQ job (subcodeP job (m ++ r))) = m ++ channels job r := by
  obtain ⟨p, q, w, rfl, hp, hq, hw⟩ := exists_channel_rows hr
  have hp' : (if chanP job then List.replicate 12 (if job.pause then 0xFF else 0x00) else p).length = 12 := by
    split_ifs <;> simp [hp]
  have hq' : (if chanQ job then qBytes job.q else q).length = 12 := by
    split_ifs <;> simp [hq]
  rw [subcodeP_append job hm hp, subcodeQ_append job hm hp' hq, subcodeRW_append job hm hp' hq' hw,
    channels_rows job w hp hq]

theorem channels_length (hr : r.length = 96) : (channels job r).length = 96 := by
  obtain ⟨p, q, w, rfl, hp, hq, hw⟩ := exists_channel_rows hr
  rw [channels_rows job w hp hq]
  split_ifs <;> simp [hp, hq, hw]

theorem subcodeInterleave_append (hm : m.length = 2352) (hr : r.length = 96) :
    subcodeInterleave job (m ++ r) = m ++ if deint job then r else interleave r := by
  by_cases h : deint job
  · rw [subcodeInterleave, if_pos (show job.has .subcodeDeinterleave = true from h), if_pos h]
  · have hwrite := memWrite_append (b := r) (v := interleave r) [] hm (by rw [hr, interleave_length])
    rw [subcodeInterleave, if_neg (show ¬ job.has .subcodeDeinterleave = true from h), if_neg h,
      Config.subcodeBytes, memRead_append_right hm hr]
    simpa only [List.append_nil] using hwrite

/-- The subcode step keeps the main channel and makes the region what the statements say. -/
theorem subcode_append (hm : m.length = 2352) (hr : r.length = 96) :
    subcode job (m ++ r) = m ++ subcodeRegion job r := by
  by_cases h : anySub job
  · rw [subcode, if_pos ((wantsSubcode_iff job).2 h), subcodeChannels_append job hm hr,
      subcodeInterleave_append job hm (channels_length job hr), subcodeRegion, if_pos h]
  · rw [subcode, if_neg (mt (wantsSubcode_iff job).1 h), subcodeRegion, if_neg h]

theorem subcodeRegion_length (hr : r.length = 96) : (subcodeRegion job r).length = 96 := by
  unfold subcodeRegion
  split_ifs <;> simp [channels_length job hr, hr]

end

/-- A frame is its main channel and its subcode region. -/
theorem exists_main_region {f : List Byte} (hf : f.length = 2448) :
    ∃ m r, f = m ++ r ∧ m.length = 2352 ∧ r.length = 96 :=
  ⟨f.take 2352, f.drop 2352, (List.take_append_drop 2352 f).symm, by simp [hf], by simp [hf]⟩

theorem memRead_subcode_main (job : SynthJob) {f : List Byte} (hf : f.length = 2448) {k n : Nat} (h : k + n ≤ 2352) :
    memRead (subcode job f) k n = memRead f k n := by
  obtain ⟨m, r, rfl, hm, hr⟩ := exists_main_region hf
  rw [subcode_append job hm hr, memRead_append_left _ (by omega), memRead_append_left _ (by omega)]

theorem memRead_subcode_region (job : SynthJob) {f : List Byte} (hf : f.length = 2448) :
    memRead (subcode job f) 2352 96 = subcodeRegion job (memRead f 2352 96) := by
  obtain ⟨m, r, rfl, hm, hr⟩ := exists_main_region hf
  rw [subcode_append job hm hr, memRead_append_right hm (subcodeRegion_length job hr), memRead_append_right hm hr]

/-! ## A job that runs to its end (R251, R252, R257) -/

/-- What the source answers a main channel, if asked. -/
def answer (c : MainChannel) (disc : Disc) (lba : Int) : Option (List Byte) :=
  if c.wanted then some (if c.zero then List.replicate c.length 0x00 else disc.readBlock lba c.length) else none

/-- An answer of the length asked for is fetched. -/
theorem fetch_eq_answer {c : MainChannel} {disc : Disc} {lba : Int}
    (h : c.wanted = true → c.zero = false → (disc.readBlock lba c.length).length = c.length) :
    c.fetch disc lba = .ok (answer c disc lba) := by
  unfold MainChannel.fetch answer
  by_cases hwanted : c.wanted = true
  · cases hzero : c.zero with
    | true => simp [hwanted]
    | false => simp [hwanted, h hwanted hzero]
  · simp [hwanted]

theorem wantsRaw_iff (job : SynthJob) : wantsRaw job = true ↔ anyMain job := by
  simp only [wantsRaw, Bool.or_eq_true, or_assoc]
  rfl

/-- The source is called exactly for the length that the statements say the variant asks for. -/
theorem asked_of_wanted {variant : Nat} {job : SynthJob} (hv : variant < 4)
    (hwanted : (mainChannel variant job).wanted = true) (hzero : (mainChannel variant job).zero = false) :
    asked variant job (mainChannel variant job).length := by
  interval_cases variant
  · exact .inl ⟨rfl, hwanted, rfl⟩
  · cases hzero
  · exact .inr ⟨rfl, (wantsRaw_iff job).1 hwanted, rfl⟩
  · cases hzero

/-- What the source of a job answers. -/
def jobAnswer (variant : Nat) (job : SynthJob) (s : State) : Option (List Byte) :=
  answer (mainChannel variant job) s.disc job.lba

/-- The frame with a job's main-channel step done to it. -/
def jobMain (variant : Nat) (job : SynthJob) (s : State) : List Byte :=
  mainStep variant s.params.edcLsbFirst job (jobAnswer variant job s) (frameBytes s job 0 2448)

/-- The state after a job that runs to its end: the calls are recorded and the frame is written. -/
def afterJob (variant : Nat) (job : SynthJob) (s : State) : State :=
  { s.called ((mainChannel variant job).calls job.lba) with
    dest := s.dest.writeBytes job.off (subcode job (jobMain variant job s)) }

@[simp] theorem frameBytes_length (s : State) (job : SynthJob) (k n : Nat) : (frameBytes s job k n).length = n :=
  Memory.readBytes_length ..

section
variable {variant : Nat} {job : SynthJob} {s : State}

theorem fetch_of_runs (hv : variant < 4) (h : runs variant job s) :
    (mainChannel variant job).fetch s.disc job.lba = .ok (jobAnswer variant job s) := by
  obtain ⟨-, -, hanswer⟩ := h
  exact fetch_eq_answer fun hwanted hzero => hanswer _ (asked_of_wanted hv hwanted hzero)

theorem exec_synthInstr_of_runs (hv : variant < 4) (h : runs variant job s) :
    exec (synthInstr variant job) s = .next (afterJob variant job s) := by
  have hfetch := fetch_of_runs hv h
  obtain ⟨hf, hcheck, -⟩ := h
  have hfaulted : ¬ s.faulted = true := fun h => (faulted_iff s).1 h hf
  rw [exec_synthInstr hv, State.synth, if_neg hfaulted, synthValidate_of_no_refusal hcheck, hfetch]
  rfl

theorem jobAnswer_length (hv : variant < 4) (h : runs variant job s) {bytes : List Byte}
    (hbytes : jobAnswer variant job s = some bytes) : bytes.length = (mainChannel variant job).length :=
  MainChannel.fetch_length ((fetch_of_runs hv h).trans (congrArg _ hbytes))

theorem jobAnswer_length_2048 (hv : variant < 2) (h : runs variant job s) :
    ∀ u, jobAnswer variant job s = some u → u.length = 2048 := fun u hu => by
  have hlen := jobAnswer_length (by omega) h hu
  rwa [mainChannel, if_pos hv] at hlen

theorem jobMain_2048 (hv : variant < 2) :
    jobMain variant job s =
      main2048 s.params.edcLsbFirst job (jobAnswer variant job s) (frameBytes s job 0 2448) := by
  rw [jobMain, mainStep, if_pos hv]

theorem hasTime_of_runs (hv : variant < 2) (h : runs variant job s) (hheader : header job) : hasTime job.lba := by
  obtain ⟨-, hcheck, -⟩ := h
  exact hasTime_of_no_refusal hv hheader hcheck

/-- The main-channel step of every variant stays in the main channel (R264). -/
theorem jobMain_agreeOutside (hv : variant < 4) (h : runs variant job s) :
    AgreeOutside 0 2352 (jobMain variant job s) (frameBytes s job 0 2448) := by
  by_cases h2048 : variant < 2
  · rw [jobMain_2048 h2048]
    exact main2048_agreeOutside _ (jobAnswer_length_2048 h2048 h) (hasTime_of_runs h2048 h) (frameBytes_length ..)
  · rw [jobMain, mainStep, if_neg h2048]
    refine main2352_agreeOutside (fun r hr => ?_) (frameBytes_length ..)
    have hlen := jobAnswer_length hv h hr
    rwa [mainChannel, if_neg h2048] at hlen

theorem jobMain_length (hv : variant < 4) (h : runs variant job s) : (jobMain variant job s).length = 2448 :=
  (jobMain_agreeOutside hv h).length_eq.trans (frameBytes_length ..)

/-- The frame of the state after a job is the one it wrote. -/
theorem frameBytes_afterJob (hv : variant < 4) (h : runs variant job s) {k n : Nat} (hk : k + n ≤ 2448) :
    frameBytes (afterJob variant job s) job k n = memRead (subcode job (jobMain variant job s)) k n := by
  have hwhole := Memory.readBytes_writeBytes s.dest job.off (subcode job (jobMain variant job s))
  rw [subcode_length (jobMain_length hv h)] at hwhole
  rw [← hwhole, memRead_readBytes _ hk]
  rfl

theorem frameBytes_afterJob_main (hv : variant < 4) (h : runs variant job s) {k n : Nat} (hk : k + n ≤ 2352) :
    frameBytes (afterJob variant job s) job k n = memRead (jobMain variant job s) k n := by
  rw [frameBytes_afterJob hv h (by omega), memRead_subcode_main job (jobMain_length hv h) hk]

theorem frameBytes_afterJob_region (hv : variant < 4) (h : runs variant job s) :
    frameBytes (afterJob variant job s) job 2352 96 = subcodeRegion job (frameBytes s job 2352 96) := by
  rw [frameBytes_afterJob hv h le_rfl, memRead_subcode_region job (jobMain_length hv h),
    (jobMain_agreeOutside hv h).memRead_eq (.inr le_rfl)]
  exact congrArg _ (memRead_readBytes s.dest (by omega))

/-- The answer of a 2048-byte variant's source, in the words of the statements. -/
theorem jobAnswer_of_user (hv : variant < 2) (huser : user job) :
    jobAnswer variant job s = some (userBytes variant job s) := by
  rw [jobAnswer, answer, mainChannel, if_pos hv, if_pos (show job.has .user2048 = true from huser)]
  interval_cases variant <;> rfl

end

/-- Settles O46: the user data is written first and the header after it, and no later step reaches either. -/
theorem synthUserDataAndHeader : Obligations.SynthUserDataAndHeader := by
  unfold Obligations.SynthUserDataAndHeader
  intro variant job s hv h
  have hframe : (frameBytes s job 0 2448).length = 2448 := frameBytes_length ..
  refine ⟨_, exec_synthInstr_of_runs (by omega) h, fun huser => ?user, fun hheader => ?header⟩
  case user =>
    have hlen := jobAnswer_length_2048 hv h _ (jobAnswer_of_user hv huser)
    rw [frameBytes_afterJob_main (by omega) h (by omega), jobMain_2048 hv, jobAnswer_of_user hv huser,
      memRead_main2048_user _ hlen (hasTime_of_runs hv h) hframe]
  case header =>
    rw [frameBytes_afterJob_main (by omega) h (by omega), jobMain_2048 hv,
      memRead_main2048_header _ (jobAnswer_length_2048 hv h) hheader (hasTime_of_runs hv h hheader) hframe]
    rfl

/-- Settles O51: by whether a subchannel part is requested, and in which form; the interleave is undone by its inverse. -/
theorem subcodeRegionOfEveryVariant : Obligations.SubcodeRegionOfEveryVariant := by
  unfold Obligations.SubcodeRegionOfEveryVariant
  intro variant job s hv h
  have hold : (channels job (frameBytes s job 2352 96)).length = 96 := channels_length job (frameBytes_length ..)
  refine ⟨_, exec_synthInstr_of_runs hv h, ?_⟩
  rw [frameBytes_afterJob_region hv h, subcodeRegion]
  refine ⟨fun hnone => if_neg hnone, fun hany hdeint => ?_, fun hany hdeint => ?_⟩
  · rw [if_pos hany, if_pos hdeint]
  · rw [if_pos hany, if_neg hdeint]
    exact ⟨rfl, deinterleave_interleave hold⟩

/-! ## The gap variants (R255, R258) -/

theorem refusal_eq_of_tags {v w : Nat} (hv : v < 4) (hw : w < 4) (h : v < 2 ↔ w < 2) (job : SynthJob) (destLen : Nat) :
    refusal v job destLen = refusal w job destLen := by
  simp only [refusal, Nat.not_le.2 hv, Nat.not_le.2 hw, if_false, h]

/-- The disc answers `n` zeros at the LBA of the job. -/
def zeroBacked (job : SynthJob) (s : State) (n : Nat) : State :=
  { s with disc := { s.disc with blocks := ⟨job.lba, n, List.replicate n 0x00⟩ :: s.disc.blocks } }

theorem readBlock_zeroBacked (job : SynthJob) (s : State) (n : Nat) :
    (zeroBacked job s n).disc.readBlock job.lba n = List.replicate n 0x00 := by
  simp [zeroBacked, Disc.readBlock]

section
variable {source : Nat} (hsource : source = 0 ∨ source = 2) (job : SynthJob) (s : State)
include hsource

/-- A gap variant is the next tag after its variant: the same channel with a zero source. -/
theorem mainChannel_gap : mainChannel (source + 1) job = { mainChannel source job with zero := true } ∧
    (mainChannel source job).zero = false := by
  obtain rfl | rfl := hsource <;> exact ⟨rfl, rfl⟩

theorem length_of_asked {n : Nat} (h : asked source job n) : n = (mainChannel source job).length := by
  obtain ⟨rfl, -, rfl⟩ | ⟨rfl, -, rfl⟩ := h <;> rfl

theorem jobAnswer_gap : jobAnswer (source + 1) job s =
    jobAnswer source job (zeroBacked job s (mainChannel source job).length) := by
  obtain ⟨hgap, hzero⟩ := mainChannel_gap hsource job
  rw [jobAnswer, jobAnswer, answer, answer, readBlock_zeroBacked, hgap, hzero]
  rfl

theorem jobMain_gap : jobMain (source + 1) job s =
    jobMain source job (zeroBacked job s (mainChannel source job).length) := by
  rw [jobMain, jobMain, jobAnswer_gap hsource]
  obtain rfl | rfl := hsource <;> rfl

theorem runs_zeroBacked (h : runs (source + 1) job s) :
    runs source job (zeroBacked job s (mainChannel source job).length) := by
  obtain ⟨hf, hcheck, -⟩ := h
  have htags : refusal source job s.destLen = refusal (source + 1) job s.destLen :=
    refusal_eq_of_tags (by omega) (by omega) (by omega) job _
  refine ⟨hf, htags.trans hcheck, fun n hn => ?_⟩
  rw [length_of_asked hsource job hn, readBlock_zeroBacked, List.length_replicate]

theorem gap_zeroBacked (h : runs (source + 1) job s) :
    ∃ t u, exec (synthInstr (source + 1) job) s = .next t ∧
      exec (synthInstr source job) (zeroBacked job s (mainChannel source job).length) = .next u ∧
      t.dest = u.dest ∧ t.calls = s.calls := by
  refine ⟨_, _, exec_synthInstr_of_runs (by omega) h,
    exec_synthInstr_of_runs (by omega) (runs_zeroBacked hsource job s h), ?dest, ?calls⟩
  case dest =>
    rw [afterJob, afterJob, jobMain_gap hsource]
    rfl
  case calls =>
    have hcalls : (mainChannel (source + 1) job).calls job.lba = [] := by
      rw [MainChannel.calls, (mainChannel_gap hsource job).1]
      simp
    rw [afterJob, hcalls]
    exact List.append_nil _

end

/-- Settles O49: what holds of a variant's tag and the next one, its gap variant's, holds of both pairs. -/
theorem gapIsZeroBacked : Obligations.GapIsZeroBacked := by
  unfold Obligations.GapIsZeroBacked
  exact fun job s => ⟨gap_zeroBacked (.inl rfl) job s, gap_zeroBacked (.inr rfl) job s⟩

end Sys2Proof.Proofs.Synth
end

section
/-! PROOFS. The statement of 60_exceptions.md that is settled here: a recorded fault is terminal (R300, R302, R303). -/

namespace Sys2Proof.Proofs.Exceptions
open Machine Claims
open BusFsm (step_of_inputs faulted_iff advance_of_fault hostWritesAndReads)
open Synth (synthOp_of_fault)

/-! ## What a recorded fault stops (60_exceptions.md R303) -/

section
variable {s : State}

/-- A later fault is not recorded (60_exceptions.md R300, R302). -/
theorem raise_of_fault {f : FaultRecord} (hf : s.fault = some f) (e : FaultRecord) : s.raise e = s := by
  rw [State.raise, hf]

theorem deviceReset_of_fault (hf : s.fault ≠ none) : s.deviceReset = s := by
  rw [State.deviceReset, if_pos ((faulted_iff s).2 hf)]

theorem load_of_fault (hf : s.fault ≠ none) (image : Bus) : s.load image = s := by
  rw [State.load, if_pos ((faulted_iff s).2 hf)]

/-- The operations that the fault test stops: none changes anything. -/
theorem perform_of_fault (hf : s.fault ≠ none) {op : HostOp}
    (hop : (∃ now, op = .advance now) ∨ (∃ d, op = .synth d) ∨ op = .reset ∨ (∃ image, op = .load image)) :
    perform op s = .next s := by
  obtain ⟨now, rfl⟩ | ⟨d, rfl⟩ | rfl | ⟨image, rfl⟩ := hop
  · exact advance_of_fault hf
  · exact synthOp_of_fault hf d
  · exact congrArg _ (deviceReset_of_fault hf)
  · exact congrArg _ (load_of_fault hf image)

/-- The operations that still act do not write the Fault record. -/
theorem perform_keeps_fault (hf : s.fault ≠ none) (op : HostOp) : ∃ t, perform op s = .next t ∧ t.fault = s.fault := by
  cases op with
  | advance now => exact ⟨s, perform_of_fault hf (.inl ⟨now, rfl⟩), rfl⟩
  | synth d => exact ⟨s, perform_of_fault hf (.inr (.inl ⟨d, rfl⟩)), rfl⟩
  | reset => exact ⟨s, perform_of_fault hf (.inr (.inr (.inl rfl))), rfl⟩
  | load image => exact ⟨s, perform_of_fault hf (.inr (.inr (.inr ⟨image, rfl⟩))), rfl⟩
  | writeSignal l v => exact ⟨_, rfl, s.writeSignal_fault l v⟩
  | writeData v => exact ⟨_, rfl, s.writeData_fault v⟩
  | ackInterrupt => exact ⟨_, rfl, s.ackInterrupt_fault⟩
  | provideDest bytes => exact ⟨_, rfl, s.provideDest_fault bytes⟩
  | readSignals | readData | readFault | save => exact ⟨_, rfl, s.reply_fault _⟩
  | audioMoves mode sector => exact ⟨_, rfl, rfl⟩

theorem step_keeps_fault {t : State} (hf : s.fault ≠ none) (hstep : step s = .next t) : t.fault = s.fault := by
  cases hin : s.inputs with
  | nil =>
    have hidle : step s = .next s := by simp [step, nextOperation, hin]
    cases hidle.symm.trans hstep
    rfl
  | cons op rest =>
    obtain ⟨u, hu, hfault⟩ := perform_keeps_fault (s := { s with inputs := rest }) hf op
    cases ((step_of_inputs hin).trans hu).symm.trans hstep
    exact hfault

end

/-- Settles O34: the fault test stops Advance, Synth, Reset and Load, the other operations never write the Fault record,
and each write and read acts as on any state (40_bus_fsm.md R143, R144, R146). -/
theorem faultIsTerminal : Obligations.FaultIsTerminal := by
  unfold Obligations.FaultIsTerminal
  refine ⟨State.raise_of_fault_none, fun s f hf => ?_⟩
  have hne : s.fault ≠ none := by simp [hf]
  refine ⟨raise_of_fault hf, fun t hstep => (step_keeps_fault hne hstep).trans hf, fun op rest hin => ?_⟩
  obtain ⟨-, acts⟩ := hostWritesAndReads
  obtain ⟨writeSignal, writeData, ackInterrupt, readSignals, readData, readFault⟩ := acts s rest
  refine ⟨fun hop => (step_of_inputs hin).trans (perform_of_fault (s := { s with inputs := rest }) hne hop), ?_⟩
  refine ⟨fun l v hop => writeSignal l v (hop ▸ hin), fun hop => ackInterrupt (hop ▸ hin),
    fun v hop => writeData v (hop ▸ hin), fun hop => ?_, fun hop => readData (hop ▸ hin),
    fun hop => readSignals (hop ▸ hin)⟩
  rw [← hf]
  exact readFault (hop ▸ hin)

end Sys2Proof.Proofs.Exceptions
end

section
/-! PROOFS. The statement of 70_reset_and_hazards.md that is settled here: what a device reset writes and keeps (R340). -/

namespace Sys2Proof.Proofs.ResetAndHazards
open Machine Claims
open Exceptions (deviceReset_of_fault)

/-! ## The device reset (70_reset_and_hazards.md R340, 10_state.md R44) -/

/-- Without a fault a reset writes the device fields and stops the player. -/
theorem deviceReset_of_no_fault {s : State} (hf : s.fault = none) :
    s.deviceReset = { s with bus := s.bus.afterReset s.params.resetClearsBsy }.audioStop := by
  have hfaulted : s.faulted = false := (State.faulted_eq_false s).2 hf
  simp [State.deviceReset, hfaulted]

/-- `Audio.Stop()` writes the call record and the player only. -/
theorem audioStop_eq (s : State) :
    s.audioStop = { s with calls := s.calls ++ [.audioStop], audio := s.audioStop.audio } := rfl

/-- Settles O27, by the fault test: the written device fields are those of `Bus.afterReset`, and the player is the stopped
one. -/
theorem deviceResetTable : Obligations.DeviceResetTable := by
  unfold Obligations.DeviceResetTable
  refine fun s => ⟨deviceReset_of_fault, fun hf => ⟨s.audioStop.audio, ?_⟩⟩
  rw [deviceReset_of_no_fault hf, audioStop_eq]
  rfl

end Sys2Proof.Proofs.ResetAndHazards
end

section
/-! PROOFS. More statements of 30_encoding.md: the decoder inverts the encoder (sections 2, 3 and 9), words written out
from the spec (R92 to R99, R115), the fields of the AUDIO_* CDBs (R95) and the length of a CDB (R91). -/

namespace Sys2Proof.Proofs.Decoding
open Machine Claims
open Encoding

/-! ## The operands survive encoding (30_encoding.md R93, R95, R98) -/

/-- The three LBA fields of a READ CDB, put together again (30_encoding.md R93). -/
theorem read_lba_of_fields (lba : BitVec 21) :
    ((lba.extractLsb' 16 5).setWidth 8).extractLsb' 0 5 ++ lba.extractLsb' 8 8 ++ lba.extractLsb' 0 8 = lba := by
  have hsplit := lba.isLt
  refine BitVec.eq_of_toNat_eq ?_
  rw [toNat_read_lba]
  simp only [BitVec.toNat_setWidth, BitVec.extractLsb'_toNat, Nat.shiftRight_eq_div_pow]
  omega

/-- The three bytes of a 24-bit LBA, most significant first (30_encoding.md R95). -/
theorem toNat_audio_lba (b3 b4 b5 : Byte) :
    (b3 ++ b4 ++ b5).toNat = b3.toNat * 65536 + b4.toNat * 256 + b5.toNat := by
  rw [toNat_append_byte, toNat_append_byte]
  omega

theorem audio_lba_of_bytes (a : BitVec 24) : a.extractLsb' 16 8 ++ a.extractLsb' 8 8 ++ a.extractLsb' 0 8 = a := by
  have hsplit := a.isLt
  refine BitVec.eq_of_toNat_eq ?_
  rw [toNat_audio_lba]
  simp only [BitVec.extractLsb'_toNat, Nat.shiftRight_eq_div_pow]
  omega

theorem decodeAudioAddr_encodeAudio (op control : Byte) (addr : AudioAddr) :
    decodeAudioAddr (encodeAudio op control addr) = addr := by
  cases addr with
  | lba a =>
    have hbytes := decodeAudioAddr_of_0x00 (cdb := encodeAudio op control (.lba a))
      (by simp [encodeAudio, cdbByte])
    exact hbytes.trans (congrArg AudioAddr.lba (audio_lba_of_bytes a))
  | msf m s f => exact decodeAudioAddr_of_0x40 (by simp [encodeAudio, cdbByte])
  | track t => exact decodeAudioAddr_of_0x80 (by simp [encodeAudio, cdbByte])
  | reserved => exact decodeAudioAddr_of_0xC0 (by simp [encodeAudio, cdbByte])

/-- An encoded AUDIO_* CDB is its opcode, its control byte and eight bytes more. -/
theorem encodeAudio_eq_cons (op control : Byte) (addr : AudioAddr) :
    ∃ rest, encodeAudio op control addr = op :: rest ∧ rest.length = 9 ∧ cdbByte (op :: rest) 1 = control := by
  cases addr <;> exact ⟨_, rfl, rfl, rfl⟩

theorem decodeTocRequest_encodeTocRequest (op : Byte) {req : TocRequest} (h : req.wellFormed = true) :
    decodeTocRequest (tenBytes op (encodeTocRequest req).1 (encodeTocRequest req).2) = req := by
  cases req with
  | trackCount => rfl
  | discLength => rfl
  | trackStart t => rfl
  | other fn =>
    have hfn : 3 ≤ fn.toNat := of_decide_eq_true h
    have hne : fn ≠ 0 ∧ fn ≠ 1 ∧ fn ≠ 2 := by
      refine ⟨?_, ?_, ?_⟩ <;> (rintro rfl; exact absurd hfn (by decide))
    obtain ⟨h0, h1, h2⟩ := hne
    have hbyte : cdbByte (tenBytes op fn 0) 1 = fn := rfl
    simp only [encodeTocRequest, decodeTocRequest, hbyte, if_neg h0, if_neg h1, if_neg h2]

/-! ## The round trip (30_encoding.md sections 2, 3 and 9) -/

section
variable {o : Opcodes} (hd : o.distinct)
include hd

theorem decodeCdb_encodeAudio (control : Byte) (addr : AudioAddr) :
    decodeCdb o (encodeAudio o.audioStartPos control addr) = .ok (.audioStartPos control addr) ∧
    decodeCdb o (encodeAudio o.audioEndPos control addr) = .ok (.audioEndPos control addr) := by
  constructor
  · obtain ⟨rest, heq, hlen, hcontrol⟩ := encodeAudio_eq_cons o.audioStartPos control addr
    have haddr := decodeAudioAddr_encodeAudio o.audioStartPos control addr
    rw [heq] at haddr ⊢
    rw [decodeCdb_audioStartPos hd hlen, hcontrol, haddr]
  · obtain ⟨rest, heq, hlen, hcontrol⟩ := encodeAudio_eq_cons o.audioEndPos control addr
    have haddr := decodeAudioAddr_encodeAudio o.audioEndPos control addr
    rw [heq] at haddr ⊢
    rw [decodeCdb_audioEndPos hd hlen, hcontrol, haddr]

theorem decodeCdb_encodeToc {req : TocRequest} (h : req.wellFormed = true) :
    decodeCdb o (tenBytes o.readToc (encodeTocRequest req).1 (encodeTocRequest req).2) = .ok (.readToc req) := by
  have hreq := decodeTocRequest_encodeTocRequest o.readToc h
  rw [tenBytes] at hreq ⊢
  rw [decodeCdb_readToc hd rfl, hreq]

theorem decode_encode {i : Instr} (hwf : i.wellFormed o = true) : decode o (encode o i) = .ok i := by
  cases i with
  | testUnitReady => exact decodeCdb_testUnitReady hd rfl
  | read lba count =>
    have hfields := decodeCdb_read hd ((lba.extractLsb' 16 5).setWidth 8) (lba.extractLsb' 8 8) (lba.extractLsb' 0 8) count 0
    rwa [read_lba_of_fields] at hfields
  | audioStartPos control addr => exact (decodeCdb_encodeAudio hd control addr).1
  | audioEndPos control addr => exact (decodeCdb_encodeAudio hd control addr).2
  | pause => exact decodeCdb_pause hd rfl
  | readSubcodeQ => exact decodeCdb_readSubcodeQ hd rfl
  | readToc req => exact decodeCdb_encodeToc hd hwf
  | unrecognized op => exact decodeCdb_of_unassigned (of_decide_eq_true hwf) []
  | synthMode1_2048 job | synthGap_2048 job | synthRaw_2352 job | synthGap_2352 job => rfl

end

/-- The architect's law for each constructor, as one law. -/
theorem encodedForm (i : Instr) : Laws.EncodedForm.Statement i := by
  cases i with
  | testUnitReady => exact Laws.EncodedForm.testUnitReady
  | read lba count => exact Laws.EncodedForm.read lba count
  | audioStartPos control addr => exact Laws.EncodedForm.audioStartPos control addr
  | audioEndPos control addr => exact Laws.EncodedForm.audioEndPos control addr
  | pause => exact Laws.EncodedForm.pause
  | readSubcodeQ => exact Laws.EncodedForm.readSubcodeQ
  | readToc req => exact Laws.EncodedForm.readToc req
  | unrecognized op => exact Laws.EncodedForm.unrecognized op
  | synthMode1_2048 job => exact Laws.EncodedForm.synthMode1_2048 job
  | synthGap_2048 job => exact Laws.EncodedForm.synthGap_2048 job
  | synthRaw_2352 job => exact Laws.EncodedForm.synthRaw_2352 job
  | synthGap_2352 job => exact Laws.EncodedForm.synthGap_2352 job

theorem length_of_encode_eq_cdb {o : Opcodes} (hd : o.distinct) {i : Instr} (hwf : i.wellFormed o = true) {op : Byte}
    {rest : List Byte} (h : encode o i = .cdb (op :: rest)) : (op :: rest).length = cdbLength o op := by
  have hform := encodedForm i o hd hwf
  rw [h] at hform
  exact hform

/-! ## What the decoder reads is well-formed -/

theorem decodeTocRequest_wellFormed (cdb : List Byte) : (decodeTocRequest cdb).wellFormed = true := by
  unfold decodeTocRequest
  dsimp only
  split_ifs with h0 h1 h2
  · rfl
  · rfl
  · rfl
  · exact decide_eq_true (by bv_omega)

theorem decodeFields_wellFormed (o : Opcodes) (op : Byte) (cdb : List Byte) :
    (decodeFields o op cdb).wellFormed o = true := by
  unfold decodeFields
  split_ifs with hTur hRead hStart hStop hPause hSubq hToc
  · rfl
  · rfl
  · rfl
  · rfl
  · rfl
  · rfl
  · exact decodeTocRequest_wellFormed cdb
  · exact decide_eq_true (by simp [Opcodes.assigned, Opcodes.sixByte, Opcodes.tenByte, *])

theorem wellFormed_of_decodeCdb_ok {o : Opcodes} {cdb : List Byte} {i : Instr} (h : decodeCdb o cdb = .ok i) :
    i.wellFormed o = true := by
  cases cdb with
  | nil => cases h
  | cons op rest =>
    rw [decodeCdb_cons] at h
    split_ifs at h
    cases h
    exact decodeFields_wellFormed o op (op :: rest)

/-- Settles O1: the round trip constructor by constructor, the length by the law of the encoded form, and well-formedness
by the decoder's cases. -/
theorem decodeOfEncodeIsIdentity : Obligations.DecodeOfEncodeIsIdentity := by
  unfold Obligations.DecodeOfEncodeIsIdentity
  exact fun o hd => ⟨fun i hwf => ⟨decode_encode hd hwf, fun op rest => length_of_encode_eq_cdb hd hwf⟩,
    fun cdb i => wellFormed_of_decodeCdb_ok⟩

/-! ## The fields of an AUDIO_* CDB (30_encoding.md R95) -/

/-- Settles O3: the address is what the decoder reads of bytes 2 to 5 and 9, the same for both commands. -/
theorem audioFieldsOfCdb : Obligations.AudioFieldsOfCdb := by
  unfold Obligations.AudioFieldsOfCdb
  intro o hd b1 b2 b3 b4 b5 b6 b7 b8 b9
  have haddr (op : Byte) : decodeAudioAddr [op, b1, b2, b3, b4, b5, b6, b7, b8, b9] =
    decodeAudioAddr [o.audioStartPos, b1, b2, b3, b4, b5, b6, b7, b8, b9] := rfl
  refine ⟨decodeAudioAddr [o.audioStartPos, b1, b2, b3, b4, b5, b6, b7, b8, b9], ?start, ?stop, fun h => ?lba, fun h => ?msf,
    fun h => ?track, fun h => ?reserved⟩
  case start => exact decodeCdb_audioStartPos hd rfl
  case stop => exact (decodeCdb_audioEndPos hd rfl).trans (by rw [haddr o.audioEndPos]; rfl)
  case lba => exact ⟨b3 ++ b4 ++ b5, decodeAudioAddr_of_0x00 h, toNat_audio_lba b3 b4 b5⟩
  case msf => exact decodeAudioAddr_of_0x40 h
  case track => exact decodeAudioAddr_of_0x80 h
  case reserved => exact decodeAudioAddr_of_0xC0 h

/-! ## The length of a CDB (30_encoding.md R91, R99, R102) -/

/-- The length that byte 0 implies, in the words of the statements. -/
theorem cdbLength_eq (o : Opcodes) (op : Byte) :
    cdbLength o op =
      if op = o.testUnitReady ∨ op = o.read then 6
      else if op = o.audioStartPos ∨ op = o.audioEndPos ∨ op = o.pause ∨ op = o.readSubcodeQ ∨ op = o.readToc then 10
      else 1 := by
  simp [cdbLength, Opcodes.sixByte, Opcodes.tenByte]

theorem decodeCdb_of_short {o : Opcodes} {op : Byte} {rest : List Byte} (h : rest.length + 1 < cdbLength o op) :
    decodeCdb o (op :: rest) = .error (.needMoreData (rest.length + 1) (cdbLength o op)) := by
  rw [decodeCdb_cons, if_pos h]

/-- A CDB is a command exactly when it has the bytes its first one implies. -/
theorem exists_decodeCdb_ok_iff (o : Opcodes) (op : Byte) (rest : List Byte) :
    (∃ i, decodeCdb o (op :: rest) = .ok i) ↔ cdbLength o op ≤ rest.length + 1 := by
  constructor
  · rintro ⟨i, hi⟩
    by_contra hshort
    rw [decodeCdb_of_short (by omega)] at hi
    cases hi
  · exact fun hlong => ⟨_, decodeCdb_of_length_le hlong⟩

/-- Settles O4, by comparing the bytes received with those that byte 0 implies. -/
theorem cdbLengthFromFirstByte : Obligations.CdbLengthFromFirstByte := by
  unfold Obligations.CdbLengthFromFirstByte
  intro o op rest
  rw [← cdbLength_eq]
  exact ⟨⟨exists_decodeCdb_ok_iff o op rest, decodeCdb_of_short⟩, fun hop => decodeCdb_of_unassigned hop rest⟩

/-! ## Words of the spec (30_encoding.md R98, R115) -/

/-- Settles O2: the words by evaluation, the sub-functions of READ_TOC by its decoder, the tags by that of a job. -/
theorem specWordsDecode : Obligations.SpecWordsDecode := by
  unfold Obligations.SpecWordsDecode
  refine ⟨by decide, by decide, by decide, by decide, by decide, by decide, by decide, by decide, by decide, by decide,
    by decide, fun o hd fn b2 b3 b4 b5 b6 b7 b8 b9 => decodeCdb_readToc hd rfl,
    fun job => ⟨rfl, rfl, rfl, rfl, fun tag h => ?known, fun tag h => ?unknown⟩⟩
  case known => exact Synth.decodeJob_of_lt (d := ⟨tag, job⟩) h
  case unknown => exact Synth.decodeJob_of_le (d := ⟨tag, job⟩) h

end Sys2Proof.Proofs.Decoding
end

section
/-! PROOFS. Times and tracks: an LBA and its time (42_codecs.md R213, R214), the position an AUDIO_* address stands for
(41_scsi_commands.md R179, R180), READ_TOC (R177) and what the audio player then is (60_exceptions.md R323). -/

namespace Sys2Proof.Proofs.Tracks
open Machine Claims
open Codecs Commands
open Synth (lbaToMsf_of_hasTime lbaToMsf_of_not_hasTime)
open ResetAndHazards (deviceReset_of_no_fault)

/-! ## An LBA and its time (42_codecs.md R213, R214) -/

section
variable {lba : Int}

theorem msfBytes_of_hasTime (h : hasTime lba) : msfBytes lba = .ok (timeBytes lba) := by
  rw [msfBytes, lbaToMsf_of_hasTime h]
  rfl

theorem msfBytes_of_not_hasTime (h : ¬ hasTime lba) : msfBytes lba = .error (.msfRange lba) := by
  rw [msfBytes, lbaToMsf_of_not_hasTime h]

/-- A time of an LBA counts its frames, 150 of which come before LBA 0. -/
theorem exists_time_of_hasTime (h : hasTime lba) : ∃ t : Msf, lbaToMsf lba = .ok t ∧ t.m ≤ 99 ∧ t.s < 60 ∧ t.f < 75 ∧
    ((t.m * 60 + t.s) * 75 + t.f : Nat) - 150 = lba := by
  obtain ⟨-, -, t, ht, hm, hs, hf, hcount⟩ | ⟨hout, -⟩ := lbaToMsf_cases lba
  · exact ⟨t, ht, hm, by omega, by omega, by omega⟩
  · omega

end

/-- Settles O55: by whether the LBA has a time. -/
theorem lbaMsfRoundTrip : Obligations.LbaMsfRoundTrip := by
  unfold Obligations.LbaMsfRoundTrip
  refine fun lba => ⟨fun h => ?inside, fun h => ⟨lbaToMsf_of_not_hasTime h, msfBytes_of_not_hasTime h⟩⟩
  case inside =>
    obtain ⟨t, ht, hm, hs, hf, hback⟩ := exists_time_of_hasTime h
    exact ⟨t, ht, hm, hs, hf, hback, hback, msfBytes_of_hasTime h⟩

/-! ## Tracks (41_scsi_commands.md R177, R180) -/

section
variable {toc : Toc} {n : Nat}

theorem trackOrFirst_eq_atLeastOne (n : Nat) : trackOrFirst n = atLeastOne n := rfl

theorem atLeastOne_pos (n : Nat) : 0 < atLeastOne n := by
  unfold atLeastOne
  split_ifs <;> omega

theorem track?_of_beyond (h : beyond toc n) : toc.track? (trackOrFirst n) = none :=
  List.getElem?_eq_none (by rw [trackOrFirst_eq_atLeastOne]; have := atLeastOne_pos n; omega)

theorem not_beyond_of_isTrack {tr : TocTrack} (h : isTrack toc n tr) : ¬ beyond toc n := by
  have hin := (List.getElem?_eq_some_iff.1 h).1
  have hpos := atLeastOne_pos n
  omega

theorem trackLba_of_beyond (h : beyond toc n) : trackLba toc n = toc.leadoutLBA := by
  rw [trackLba, track?_of_beyond h]

theorem trackLba_of_isTrack {tr : TocTrack} (h : isTrack toc n tr) : trackLba toc n = tr.start := by
  have htrack : toc.track? (trackOrFirst n) = some tr := h
  rw [trackLba, htrack]

theorem trackLbaCalls_of_beyond (h : beyond toc n) : trackLbaCalls toc n = [.tocTrackCount, .tocLeadoutLBA] := if_pos h

theorem trackLbaCalls_of_isTrack {tr : TocTrack} (h : isTrack toc n tr) :
    trackLbaCalls toc n = [.tocTrackCount, .tocTrackStart (atLeastOne n)] := if_neg (not_beyond_of_isTrack h)

theorem trackFlag_of_beyond (h : beyond toc n) : trackFlag toc n = 0x00 := by
  rw [trackFlag, track?_of_beyond h]

theorem trackFlag_of_isTrack {tr : TocTrack} (h : isTrack toc n tr) :
    trackFlag toc n = if tr.isAudio then 0x00 else 0x04 := by
  have htrack : toc.track? (trackOrFirst n) = some tr := h
  rw [trackFlag, htrack]

end

/-! ## The position of an AUDIO_* address (41_scsi_commands.md R179, R180) -/

/-- The number that the digits of a BCD byte write (42_codecs.md R211). -/
abbrev bcdValue (b : Byte) : Nat := 10 * (b.toNat / 16) + b.toNat % 16

theorem bcdToBin_eq_bcdValue {b : Byte} (h : validBcd b) : bcdToBin b = .ok (bcdValue b) := bcdToBin_of_validBcd h

section
variable {toc : Toc} {old : Int}

theorem audioAddress_msf {m s f : Byte} (hm : validBcd m) (hs : validBcd s) (hf : validBcd f) :
    audioAddress toc old (.msf m s f) = .ok (msfToLba ⟨bcdValue m, bcdValue s, bcdValue f⟩) := by
  simp only [audioAddress, bcdToBin_eq_bcdValue hm, bcdToBin_eq_bcdValue hs, bcdToBin_eq_bcdValue hf]

/-- The bytes of a time are decoded in the order M, S, F, and the first malformed one ends the decoding. -/
theorem audioAddress_msf_malformed (m s f : Byte) :
    (¬ validBcd m → audioAddress toc old (.msf m s f) = .error (.badBcd m)) ∧
    (validBcd m → ¬ validBcd s → audioAddress toc old (.msf m s f) = .error (.badBcd s)) ∧
    (validBcd m → validBcd s → ¬ validBcd f → audioAddress toc old (.msf m s f) = .error (.badBcd f)) := by
  refine ⟨fun hm => ?_, fun hm hs => ?_, fun hm hs hf => ?_⟩
  · simp only [audioAddress, bcdToBin_of_not_validBcd hm]
  · simp only [audioAddress, bcdToBin_eq_bcdValue hm, bcdToBin_of_not_validBcd hs]
  · simp only [audioAddress, bcdToBin_eq_bcdValue hm, bcdToBin_eq_bcdValue hs, bcdToBin_of_not_validBcd hf]

theorem audioAddress_track_malformed {t : Byte} (h : ¬ validBcd t) :
    audioAddress toc old (.track t) = .error (.badBcd t) := by
  simp only [audioAddress, bcdToBin_of_not_validBcd h]

theorem audioAddress_track {t : Byte} (h : validBcd t) :
    audioAddress toc old (.track t) = .ok (trackLba toc (bcdValue t)) ∧
      audioAddressCalls toc (.track t) = trackLbaCalls toc (bcdValue t) := by
  simp only [audioAddress, audioAddressCalls, bcdToBin_eq_bcdValue h, and_self]

end

/-- Settles O15, by the address type: a time by its digits, a track by whether the table holds it. -/
theorem audioAddressIsThePosition : Obligations.AudioAddressIsThePosition := by
  unfold Obligations.AudioAddressIsThePosition
  refine fun toc old => ⟨fun a => ⟨rfl, rfl⟩, fun m s f => ⟨rfl, audioAddress_msf, audioAddress_msf_malformed m s f⟩,
    fun t => ⟨audioAddress_track_malformed, fun ht => ?track⟩, rfl, rfl⟩
  case track =>
    obtain ⟨hposition, hcalls⟩ := audioAddress_track (toc := toc) (old := old) ht
    rw [hposition, hcalls]
    refine ⟨fun hbeyond => ⟨?_, trackLbaCalls_of_beyond hbeyond⟩, fun tr htr => ⟨?_, trackLbaCalls_of_isTrack htr⟩⟩
    · rw [trackLba_of_beyond hbeyond]
    · rw [trackLba_of_isTrack htr]

/-! ## READ_TOC (41_scsi_commands.md R177) -/

section
variable {s : State} {req : TocRequest}

/-- A fault leaves the calls made, and the queue as `tocFaultQueue` says (log 30). -/
theorem exec_readToc_of_error (hf : s.fault = none) {e : FaultRecord} (h : tocBytes s.disc.toc req = .error e) :
    exec (.readToc req) s = .next { s with
      fault := some e
      calls := s.calls ++ tocCalls s.disc.toc req
      bus := { s.bus with dataIn := tocFaultQueue req s.bus.dataIn } } := by
  simp only [exec, execReadToc, h]
  exact congrArg _ (State.raise_of_fault_none _ e hf)

theorem exec_readToc_of_ok {bs : List Byte} (h : tocBytes s.disc.toc req = .ok (some bs)) (hlen : bs.length ≤ 2048) :
    exec (.readToc req) s = .next { s with
      bus := inDataIn s.bus bs, calls := s.calls ++ tocCalls s.disc.toc req } := by
  simp only [exec, execReadToc, h]
  rw [answer_eq_inDataIn hlen]
  rfl

theorem exec_readToc_other (fn : Byte) : exec (.readToc (.other fn)) s = .next { s with bus := inStatus s.bus } := by
  have hcalls : s.called (tocCalls s.disc.toc (.other fn)) = s := by simp [State.called, tocCalls]
  simp only [exec, execReadToc, tocBytes, hcalls, enterGoodStatus_eq]

end

section
variable {toc : Toc} {t : Byte}

theorem tocBytes_trackCount_of_le (h : toc.tracks.length ≤ 99) :
    tocBytes toc .trackCount = .ok (some [0x01, bcdOf toc.tracks.length]) := by
  simp only [tocBytes, Toc.trackCount, binToBcd_of_le h]

theorem tocBytes_trackCount_of_lt (h : 99 < toc.tracks.length) :
    tocBytes toc .trackCount = .error (.bcdRange toc.tracks.length) := by
  simp only [tocBytes, Toc.trackCount, binToBcd_of_lt h]

theorem tocBytes_discLength (h : hasTime toc.leadoutLBA) :
    tocBytes toc .discLength = .ok (some (timeBytes toc.leadoutLBA)) := by
  simp only [tocBytes, msfBytes_of_hasTime h]

theorem tocBytes_discLength_of_not_hasTime (h : ¬ hasTime toc.leadoutLBA) :
    tocBytes toc .discLength = .error (.msfRange toc.leadoutLBA) := by
  simp only [tocBytes, msfBytes_of_not_hasTime h]

theorem tocBytes_trackStart_malformed (h : ¬ validBcd t) : tocBytes toc (.trackStart t) = .error (.badBcd t) := by
  simp only [tocBytes, bcdToBin_of_not_validBcd h]

theorem tocBytes_trackStart (ht : validBcd t) (h : hasTime (trackLba toc (bcdValue t))) :
    tocBytes toc (.trackStart t) =
      .ok (some (timeBytes (trackLba toc (bcdValue t)) ++ [trackFlag toc (bcdValue t)])) := by
  simp only [tocBytes, bcdToBin_eq_bcdValue ht, msfBytes_of_hasTime h]

theorem tocBytes_trackStart_of_not_hasTime (ht : validBcd t) (h : ¬ hasTime (trackLba toc (bcdValue t))) :
    tocBytes toc (.trackStart t) = .error (.msfRange (trackLba toc (bcdValue t))) := by
  simp only [tocBytes, bcdToBin_eq_bcdValue ht, msfBytes_of_not_hasTime h]

theorem tocCalls_trackStart_malformed (h : ¬ validBcd t) : tocCalls toc (.trackStart t) = [] := by
  simp only [tocCalls, bcdToBin_of_not_validBcd h]

theorem tocCalls_trackStart_of_beyond (ht : validBcd t) (h : beyond toc (bcdValue t)) :
    tocCalls toc (.trackStart t) = [.tocTrackCount, .tocLeadoutLBA] := by
  simp only [tocCalls, bcdToBin_eq_bcdValue ht]
  exact if_pos h

theorem tocCalls_trackStart_of_isTrack (ht : validBcd t) {tr : TocTrack} (h : isTrack toc (bcdValue t) tr) :
    tocCalls toc (.trackStart t) = [.tocTrackCount, .tocTrackStart (atLeastOne (bcdValue t)),
      .tocIsAudio (atLeastOne (bcdValue t))] := by
  simp only [tocCalls, bcdToBin_eq_bcdValue ht]
  exact if_neg (not_beyond_of_isTrack h)

end

/-- Settles O60: the queue is cleared before F3 is raised. -/
theorem readTocBcdRangeClearsQueue : Obligations.ReadTocBcdRangeClearsQueue := by
  unfold Obligations.ReadTocBcdRangeClearsQueue
  exact fun s hf hmany => exec_readToc_of_error hf (tocBytes_trackCount_of_lt hmany)

section
variable {s : State} {t : Byte} (hf : s.fault = none) (ht : validBcd t)
include ht

/-- Sub-function 2 with a track that the table holds, or the lead-out in its place. -/
theorem exec_readToc_trackStart (h : hasTime (trackLba s.disc.toc (bcdValue t))) :
    exec (.readToc (.trackStart t)) s = .next { s with
      bus := inDataIn s.bus (timeBytes (trackLba s.disc.toc (bcdValue t)) ++ [trackFlag s.disc.toc (bcdValue t)])
      calls := s.calls ++ tocCalls s.disc.toc (.trackStart t) } :=
  exec_readToc_of_ok (tocBytes_trackStart ht h) (by simp [timeBytes])

include hf

theorem exec_readToc_trackStart_of_not_hasTime (h : ¬ hasTime (trackLba s.disc.toc (bcdValue t))) :
    exec (.readToc (.trackStart t)) s = .next { s with
      fault := some (.msfRange (trackLba s.disc.toc (bcdValue t)))
      calls := s.calls ++ tocCalls s.disc.toc (.trackStart t) } :=
  exec_readToc_of_error hf (tocBytes_trackStart_of_not_hasTime ht h)

end

/-- Settles O13: each sub-function by what it has to answer; a track by whether the table holds it. -/
theorem readTocAnswersOrFaults : Obligations.ReadTocAnswersOrFaults := by
  unfold Obligations.ReadTocAnswersOrFaults
  refine fun s hf => ⟨fun h => ?count, fun h => ⟨[], readTocBcdRangeClearsQueue s hf h⟩, fun h => ?length, fun h => ?noLength,
    fun t h => ?malformed, fun t ht => ⟨fun hbeyond h => ?leadout, fun hbeyond h => ?noLeadout, fun tr htr h => ?track,
    fun tr htr h => ?noTrack⟩, fun fn => exec_readToc_other fn⟩
  case count => exact exec_readToc_of_ok (tocBytes_trackCount_of_le h) (by simp)
  case length => exact exec_readToc_of_ok (tocBytes_discLength h) (by simp [timeBytes])
  case noLength => exact exec_readToc_of_error hf (tocBytes_discLength_of_not_hasTime h)
  case malformed =>
    rw [exec_readToc_of_error hf (tocBytes_trackStart_malformed h), tocCalls_trackStart_malformed h, List.append_nil]
    rfl
  case leadout =>
    rw [← trackLba_of_beyond hbeyond] at h ⊢
    rw [← trackFlag_of_beyond hbeyond, ← tocCalls_trackStart_of_beyond ht hbeyond]
    exact exec_readToc_trackStart ht h
  case noLeadout =>
    rw [← trackLba_of_beyond hbeyond] at h ⊢
    rw [← tocCalls_trackStart_of_beyond ht hbeyond]
    exact exec_readToc_trackStart_of_not_hasTime hf ht h
  case track =>
    rw [← trackLba_of_isTrack htr] at h ⊢
    rw [← trackFlag_of_isTrack htr, ← tocCalls_trackStart_of_isTrack ht htr]
    exact exec_readToc_trackStart ht h
  case noTrack =>
    rw [← trackLba_of_isTrack htr] at h ⊢
    rw [← tocCalls_trackStart_of_isTrack ht htr]
    exact exec_readToc_trackStart_of_not_hasTime hf ht h

/-! ## The audio player (60_exceptions.md R323) -/

theorem startAudio_audio (s : State) (control : Byte) (start : Int) :
    (s.startAudio control start).audio =
      { s.audio with mode := if control = 0 then .paused else .playing, currentSector := start } := by
  by_cases hpause : control = 0
  · rw [State.startAudio, if_pos hpause, if_pos hpause]
    rfl
  · rw [State.startAudio, if_neg hpause, if_neg hpause]
    rfl

theorem endAudioMode_audio_zero (s : State) : (s.endAudioMode 0).audio = { s.audio with mode := .stopped } := by
  simp [State.endAudioMode]

theorem endAudioMode_audio_of_mode {s : State} {control : Byte} {mode : PlayMode} (hne : control ≠ 0)
    (h : endPlayMode control = some mode) :
    (s.endAudioMode control).audio = ⟨.playing, s.bus.audioStartLBA, s.bus.audioEndLBA, mode⟩ := by
  rw [State.endAudioMode, if_neg hne, h]
  rfl

theorem endAudioMode_audio_of_none {s : State} {control : Byte} (hne : control ≠ 0) (h : endPlayMode control = none) :
    (s.endAudioMode control).audio = s.audio := by
  rw [State.endAudioMode, if_neg hne, h]

theorem endPlayMode_eq_none {control : Byte} (h : 4 ≤ control.toNat) : control ≠ 0 ∧ endPlayMode control = none := by
  have hne : control ≠ 0 ∧ control ≠ 1 ∧ control ≠ 2 ∧ control ≠ 3 := by
    refine ⟨?_, ?_, ?_, ?_⟩ <;> bv_omega
  obtain ⟨h0, h1, h2, h3⟩ := hne
  exact ⟨h0, by rw [endPlayMode, if_neg h1, if_neg h2, if_neg h3]⟩

/-- Answering with data leaves the player alone. -/
theorem answer_audio (s : State) (bs : List Byte) : (s.answer bs).audio = s.audio := by
  unfold State.answer State.enqueueThen
  dsimp only
  split_ifs
  · rw [State.raise_audio]
  · rfl

theorem exec_readToc_audio {req : TocRequest} {s t : State} (h : exec (.readToc req) s = .next t) : t.audio = s.audio := by
  unfold exec execReadToc at h
  cases h
  dsimp only
  split
  · rw [State.raise_audio]; rfl
  · rw [answer_audio]; rfl
  · rfl

/-- Settles O16, command by command. -/
theorem audioPlayerFollowsCommands : Obligations.AudioPlayerFollowsCommands := by
  unfold Obligations.AudioPlayerFollowsCommands
  refine fun s => ⟨fun lba count t h => ?read, fun t h => ?pause, fun control addr start t haddr h => ?start,
    fun control addr stop t haddr h => ?stop, fun i t hi h => ?others, fun t h hf => ?reset⟩
  case read => cases h; rfl
  case pause => cases h; rfl
  case start =>
    rw [exec_audioStartPos_of_ok haddr] at h
    cases h
    exact startAudio_audio ..
  case stop =>
    rw [exec_audioEndPos_of_ok haddr] at h
    cases h
    refine ⟨fun hzero => ?_, fun mode hmode => ?_, fun hbig => ?_⟩
    · subst hzero
      exact endAudioMode_audio_zero _
    · obtain ⟨rfl, rfl⟩ | ⟨rfl, rfl⟩ | ⟨rfl, rfl⟩ := hmode <;> exact endAudioMode_audio_of_mode (by decide) rfl
    · obtain ⟨hne, hnone⟩ := endPlayMode_eq_none hbig
      exact endAudioMode_audio_of_none hne hnone
  case others =>
    obtain rfl | rfl | ⟨req, rfl⟩ | ⟨op, rfl⟩ := hi
    · cases h; rfl
    · cases h; exact answer_audio ..
    · exact exec_readToc_audio h
    · cases h; rfl
  case reset =>
    cases h
    rw [deviceReset_of_no_fault hf]
    rfl

end Sys2Proof.Proofs.Tracks
end

section
/-! PROOFS. What an instruction, a pass, an Advance and a step can do, each said once, and what follows of it: every step
answers a next state (60_exceptions.md R300), the parameters and the disc are constant (00_scope.md R9), and the phase
graph of one pass (40_bus_fsm.md R149). -/

namespace Sys2Proof.Proofs.Effects
open Machine Claims
open BusFsm Commands Tracks
open Synth (exec_synthInstr synthOp_cases mainChannel mainStep synthValidate_eq_refusal decodeJob_of_lt decodeJob_of_le)

/-! ## What an instruction can do to the device (41_scsi_commands.md R171 to R178) -/

/-- All that an instruction can do to the device: write the queue at most, as a job and a faulting command do; enter
Status with an audio position set; enter DataIn with an answer; or start a read. -/
inductive BusEffect (b : Bus) : Bus → Prop where
  | queue {q : List Byte} (hq : q = b.dataIn ∨ q = []) : BusEffect b { b with dataIn := q }
  | status (start stop : Int) : BusEffect b (inStatus { b with audioStartLBA := start, audioEndLBA := stop })
  | answer {bs : List Byte} (hne : bs ≠ []) (hlen : bs.length ≤ 2048) : BusEffect b (inDataIn b bs)
  | read (lba : Int) {count : Nat} (hpos : 0 < count) (hle : count ≤ 256) (deadline : Nat) :
    BusEffect b (b.startRead lba count deadline)

theorem BusEffect.refl (b : Bus) : BusEffect b b := .queue (.inl rfl)

theorem BusEffect.good (b : Bus) : BusEffect b (inStatus b) := .status b.audioStartLBA b.audioEndLBA

/-- The destination is canonical and inside its length (20_memory.md R64). -/
def destInBuffer (s : State) : Prop := s.dest.wf ∧ ∀ c ∈ s.dest, c.1 < s.destLen

/-- What the device leaves alone whatever it does: the parameters, the disc, the host's operations to come and the
destination's length; the destination stays inside that length, and F8 is not raised. -/
structure Frame (s t : State) : Prop where
  params : t.params = s.params
  disc : t.disc = s.disc
  inputs : t.inputs = s.inputs
  destLen : t.destLen = s.destLen
  dest : destInBuffer s → destInBuffer t
  fault : t.fault = some .queueOverflow → s.fault = some .queueOverflow

section
variable {s t u : State}

/-- Writing the device, the player, the clock or the records leaves the rest alone. -/
theorem Frame.of_writes (s : State) (bus : Bus) (audio : Audio) (now : Nat) (replies : List HostReply) (calls : List Call)
    (freeCount : Nat) : Frame s { s with bus, audio, now, replies, calls, freeCount } := ⟨rfl, rfl, rfl, rfl, id, id⟩

theorem Frame.refl (s : State) : Frame s s := ⟨rfl, rfl, rfl, rfl, id, id⟩

theorem Frame.trans (hst : Frame s t) (htu : Frame t u) : Frame s u where
  params := htu.params.trans hst.params
  disc := htu.disc.trans hst.disc
  inputs := htu.inputs.trans hst.inputs
  destLen := htu.destLen.trans hst.destLen
  dest := htu.dest ∘ hst.dest
  fault := hst.fault ∘ htu.fault

theorem Frame.raise (s : State) {e : FaultRecord} (he : e ≠ .queueOverflow) : Frame s (s.raise e) where
  params := s.raise_params e
  disc := s.raise_disc e
  inputs := s.raise_inputs e
  destLen := s.raise_destLen e
  dest h := by rwa [destInBuffer, State.raise_dest, State.raise_destLen]
  fault := by
    intro hover
    rw [State.raise_fault] at hover
    cases hf : s.fault with
    | none => rw [hf] at hover; exact absurd (Option.some.inj hover) he
    | some f => rwa [hf] at hover

end

/-- What an instruction does to the device, and what it leaves alone. -/
structure Effect (s t : State) : Prop where
  bus : BusEffect s.bus t.bus
  frame : Frame s t

section
variable {s t : State}

/-- An instruction that writes the device, the player and the record of calls only. -/
theorem Effect.of_bus {b : Bus} (h : BusEffect s.bus b) (audio : Audio) (calls : List Call) :
    Effect s { s with bus := b, audio := audio, calls := calls } :=
  ⟨h, .of_writes s b audio s.now s.replies calls s.freeCount⟩

theorem Effect.refl (s : State) : Effect s s := ⟨.refl s.bus, .refl s⟩

theorem Effect.raise (h : Effect s t) {e : FaultRecord} (he : e ≠ .queueOverflow) : Effect s (t.raise e) :=
  ⟨by rw [State.raise_bus]; exact h.bus, h.frame.trans (.raise t he)⟩

end

/-! ### No instruction raises F8 -/

theorem bcdToBin_error_ne {b : Byte} {e : FaultRecord} (h : bcdToBin b = .error e) : e ≠ .queueOverflow := by
  rw [bcdToBin_error h]
  exact FaultRecord.noConfusion

theorem audioAddress_error_ne {toc : Toc} {old : Int} {addr : AudioAddr} {e : FaultRecord}
    (h : audioAddress toc old addr = .error e) : e ≠ .queueOverflow := by
  unfold audioAddress at h
  split at h
  · cases h
  · split at h
    · cases h; exact bcdToBin_error_ne (by assumption)
    · split at h
      · cases h; exact bcdToBin_error_ne (by assumption)
      · split at h
        · cases h; exact bcdToBin_error_ne (by assumption)
        · cases h
  · split at h
    · cases h; exact bcdToBin_error_ne (by assumption)
    · cases h
  · cases h

theorem msfBytes_error_ne {lba : Int} {e : FaultRecord} (h : msfBytes lba = .error e) : e ≠ .queueOverflow := by
  obtain ⟨t, -, hbytes⟩ | hbad := msfBytes_cases lba
  · rw [hbytes] at h; cases h
  · rw [hbad] at h; cases h; exact FaultRecord.noConfusion

theorem tocBytes_error_ne {toc : Toc} {req : TocRequest} {e : FaultRecord} (h : tocBytes toc req = .error e) :
    e ≠ .queueOverflow := by
  unfold tocBytes at h
  split at h
  · obtain ⟨-, hcount⟩ | ⟨-, hcount⟩ := binToBcd_cases toc.trackCount
    · rw [hcount] at h; cases h
    · rw [hcount] at h; cases h; exact FaultRecord.noConfusion
  · split at h
    · cases h; exact msfBytes_error_ne (by assumption)
    · cases h
  · split at h
    · cases h; exact bcdToBin_error_ne (by assumption)
    · split at h
      · cases h; exact msfBytes_error_ne (by assumption)
      · cases h
  · cases h

theorem synthValidate_error_ne {variant : Nat} {job : SynthJob} {destLen : Nat} {e : FaultRecord}
    (h : synthValidate variant job destLen = .error e) : e ≠ .queueOverflow := by
  rw [synthValidate_eq_refusal] at h
  cases hr : refusal variant job destLen with
  | none => rw [hr] at h; cases h
  | some f =>
    rw [hr] at h
    cases h
    rintro rfl
    unfold refusal at hr
    split_ifs at hr <;> cases hr

theorem fetch_error_ne {c : MainChannel} {disc : Disc} {lba : Int} {e : FaultRecord} (h : c.fetch disc lba = .error e) :
    e ≠ .queueOverflow := by
  unfold MainChannel.fetch at h
  split_ifs at h
  cases h
  exact FaultRecord.noConfusion

/-! ### The effect of each instruction -/

theorem readCount_pos (count : Byte) : 0 < readCount count := by
  unfold readCount
  split_ifs with h
  · omega
  · bv_omega

theorem readCount_le (count : Byte) : readCount count ≤ 256 := by
  unfold readCount
  split_ifs <;> omega

/-- An answer of READ_TOC is short and not empty (30_encoding.md R108). -/
theorem tocBytes_length {toc : Toc} {req : TocRequest} {bs : List Byte} (h : tocBytes toc req = .ok (some bs)) :
    0 < bs.length ∧ bs.length ≤ 4 := by
  unfold tocBytes at h
  split at h
  · obtain ⟨-, hcount⟩ | ⟨-, hcount⟩ := binToBcd_cases toc.trackCount
    · rw [hcount] at h; cases h; simp
    · rw [hcount] at h; cases h
  · obtain ⟨t, -, hbytes⟩ | hbad := msfBytes_cases toc.leadoutLBA
    · rw [hbytes] at h; cases h; simp
    · rw [hbad] at h; cases h
  · split at h
    · cases h
    · rename_i n _
      obtain ⟨t, -, hbytes⟩ | hbad := msfBytes_cases (trackLba toc n)
      · rw [hbytes] at h; cases h; simp
      · rw [hbad] at h; cases h
  · cases h

section
variable {s t : State}

theorem effect_enterGoodStatus (s : State) : Effect s s.enterGoodStatus := by
  rw [enterGoodStatus_eq]
  exact .of_bus (.good s.bus) s.audio s.calls

theorem effect_audioStartPos {control : Byte} {addr : AudioAddr} (h : exec (.audioStartPos control addr) s = .next t) :
    Effect s t := by
  cases haddr : audioAddress s.disc.toc s.bus.audioStartLBA addr with
  | error e =>
    rw [exec_audioStartPos_of_error haddr] at h
    cases h
    exact (Effect.refl s).raise (audioAddress_error_ne haddr)
  | ok start =>
    rw [exec_audioStartPos_of_ok haddr] at h
    cases h
    obtain ⟨audio, hwrites⟩ := startAudio_writes (s.called (audioAddressCalls s.disc.toc addr)) control start
    rw [hwrites]
    exact .of_bus (.status start s.bus.audioEndLBA) audio _

theorem effect_audioEndPos {control : Byte} {addr : AudioAddr} (h : exec (.audioEndPos control addr) s = .next t) :
    Effect s t := by
  cases haddr : audioAddress s.disc.toc s.bus.audioEndLBA addr with
  | error e =>
    rw [exec_audioEndPos_of_error haddr] at h
    cases h
    exact (Effect.refl s).raise (audioAddress_error_ne haddr)
  | ok stop =>
    rw [exec_audioEndPos_of_ok haddr] at h
    cases h
    obtain ⟨audio, hwrites⟩ := endAudioMode_writes
      { s.called (audioAddressCalls s.disc.toc addr) with bus := { s.bus with audioEndLBA := stop } } control
    rw [hwrites, enterGoodStatus_eq]
    exact .of_bus (.status s.bus.audioStartLBA stop) audio _

theorem effect_readSubcodeQ (h : exec .readSubcodeQ s = .next t) : Effect s t := by
  rw [exec_readSubcodeQ, answer_eq_inDataIn (by simp)] at h
  cases h
  exact .of_bus (.answer (by simp) (by simp)) s.audio _

theorem effect_readToc {req : TocRequest} (h : exec (.readToc req) s = .next t) : Effect s t := by
  cases hbytes : tocBytes s.disc.toc req with
  | error e =>
    simp only [exec, execReadToc, hbytes] at h
    cases h
    have hqueue : tocFaultQueue req s.bus.dataIn = s.bus.dataIn ∨ tocFaultQueue req s.bus.dataIn = [] := by
      cases req <;> simp [tocFaultQueue]
    exact (Effect.of_bus (.queue hqueue) s.audio (s.calls ++ tocCalls s.disc.toc req)).raise (tocBytes_error_ne hbytes)
  | ok answer =>
    cases answer with
    | none =>
      simp only [exec, execReadToc, hbytes] at h
      cases h
      rw [enterGoodStatus_eq]
      exact .of_bus (.good s.bus) s.audio _
    | some bs =>
      obtain ⟨hpos, hle⟩ := tocBytes_length hbytes
      have hlen : bs.length ≤ 2048 := by omega
      rw [exec_readToc_of_ok hbytes hlen] at h
      cases h
      exact .of_bus (.answer (List.ne_nil_of_length_pos hpos) hlen) s.audio _

/-- The main-channel step of every variant keeps the frame's length. -/
theorem mainStep_length {variant : Nat} {lsbFirst : Bool} {job : SynthJob} {disc : Disc} {bytes : Option (List Byte)}
    {f : List Byte} (hbytes : (mainChannel variant job).fetch disc job.lba = .ok bytes) (hf : f.length = 2448) :
    (mainStep variant lsbFirst job bytes f).length = 2448 := by
  have hlen : ∀ u, bytes = some u → u.length = (mainChannel variant job).length := by
    rintro u rfl
    exact MainChannel.fetch_length hbytes
  by_cases hv : variant < 2
  · rw [mainChannel, if_pos hv] at hlen
    rw [mainStep, if_pos hv]
    exact main2048_length hf hlen
  · rw [mainChannel, if_neg hv] at hlen
    rw [mainStep, if_neg hv]
    exact main2352_length hf hlen

theorem effect_synth (s : State) (variant : Nat) (job : SynthJob) :
    Effect s (s.synth variant job (mainChannel variant job) (mainStep variant s.params.edcLsbFirst job)) := by
  obtain ⟨-, h⟩ | ⟨-, e, he, h⟩ | ⟨-, -, e, he, h⟩ | ⟨-, hv, bytes, hbytes, h⟩ :=
    s.synth_cases variant job (mainChannel variant job) (mainStep variant s.params.edcLsbFirst job)
  · rw [h]
    exact .refl s
  · rw [h]
    exact (Effect.refl s).raise (synthValidate_error_ne he)
  · rw [h]
    exact (Effect.of_bus (.refl s.bus) s.audio _).raise (fetch_error_ne he)
  · rw [h]
    have hframe : (s.dest.readBytes job.off 2448).length = 2448 := by simp
    have hlen := subcode_length (job := job) (mainStep_length (lsbFirst := s.params.edcLsbFirst) hbytes hframe)
    have hin : job.off + 2448 ≤ s.destLen := synthValidate_ok_bounds hv
    refine ⟨.refl s.bus, rfl, rfl, rfl, rfl, fun ⟨hwf, hbound⟩ => ?_, id⟩
    exact ⟨Memory.writeBytes_wf hwf _ _, Memory.writeBytes_bound hbound (by rw [hlen]; exact hin)⟩

theorem effect_of_exec {i : Instr} (h : exec i s = .next t) : Effect s t := by
  cases i with
  | testUnitReady => cases h; exact effect_enterGoodStatus s
  | unrecognized op => cases h; exact effect_enterGoodStatus s
  | pause =>
    cases h
    rw [enterGoodStatus_eq]
    exact .of_bus (.good s.bus) _ _
  | read lba count =>
    cases h
    exact .of_bus (.read _ (readCount_pos count) (readCount_le count) _) _ _
  | audioStartPos control addr => exact effect_audioStartPos h
  | audioEndPos control addr => exact effect_audioEndPos h
  | readSubcodeQ => exact effect_readSubcodeQ h
  | readToc req => exact effect_readToc h
  | synthMode1_2048 job => cases h; exact effect_synth s 0 job
  | synthGap_2048 job => cases h; exact effect_synth s 1 job
  | synthRaw_2352 job => cases h; exact effect_synth s 2 job
  | synthGap_2352 job => cases h; exact effect_synth s 3 job

end

/-! ## What a pass can do to the device (40_bus_fsm.md R132 to R142) -/

/-- All that decoding can do: hand over to DataIn with bytes queued (log 32), ask for more bytes, or execute, after which
the command buffer is cleared or more bytes are asked for, or neither where a fault was raised (R136). -/
inductive Decoded (b : Bus) : Bus → Prop where
  | handOver (hq : b.dataIn ≠ []) : Decoded b (b.setPhase .dataIn)
  | stop {c : Bus} (h : BusEffect b c) : Decoded b c
  | clear {c : Bus} (h : BusEffect b c) : Decoded b { c with commandBuffer := [] }
  | ask {c : Bus} (h : BusEffect b c) : Decoded b (c.setReq true)

/-- All that a pass can do, each case with what it is tested on. -/
inductive PassEffect (b : Bus) : Bus → Prop where
  | idle : PassEffect b b
  | select (hsel : selecting b) : PassEffect b (b.setPhase .command)
  | attend (hsel : ¬ selecting b) (hatn : b.sig.atn = true) (hlow : bothLow b) : PassEffect b (b.setPhase .messageOut)
  | latch (hp : b.phase = .command) (hhigh : bothHigh b) (hlen : b.commandBuffer.length < 10) :
    PassEffect b ({ b with commandBuffer := b.commandBuffer ++ [b.dataBits] }.setReq false)
  | decode (hp : b.phase = .command) (hlow : bothLow b) {c : Bus} (h : Decoded b c) : PassEffect b c
  | retire (hp : b.phase = .dataIn) (hhigh : bothHigh b) : PassEffect b (b.setReq false)
  | present (hp : b.phase = .dataIn) (hlow : bothLow b) {byte : Byte} {rest : List Byte} (hq : b.dataIn = byte :: rest) :
    PassEffect b ({ b with dataBits := byte, dataIn := rest }.setReq true)
  | drain (hp : b.phase = .dataIn) (hlow : bothLow b) (hq : b.dataIn = []) : PassEffect b b.drain
  | statusAck (hp : b.phase = .status) (hhigh : bothHigh b) :
    PassEffect b ({ b with statusCompleted := true }.setReq false)
  | toMessageIn (hp : b.phase = .status) (hlow : bothLow b) (hdone : b.statusCompleted = true) :
    PassEffect b ({ b with statusCompleted := false, dataBits := b.messageValue }.setPhase .messageIn)
  | messageAck (hp : b.phase = .messageIn) (hhigh : bothHigh b) :
    PassEffect b ({ b with messageCompleted := true }.setReq false)
  | toBusFree (hp : b.phase = .messageIn) (hlow : bothLow b) (hdone : b.messageCompleted = true) :
    PassEffect b ({ b with messageCompleted := false }.setPhase .busFree)
  | stub (hp : b.phase = .dataOut ∨ b.phase = .messageOut) : PassEffect b (b.setPhase .busFree)

/-- REQ and ACK are both high, both low, or different: the case split of every handler. -/
theorem handshake_split (b : Bus) : bothHigh b ∨ bothLow b ∨ b.sig.req ≠ b.sig.ack := by
  by_cases heq : b.sig.req = b.sig.ack
  · cases hack : b.sig.ack with
    | true => exact .inl ⟨heq.trans hack, hack⟩
    | false => exact .inr (.inl ⟨heq.trans hack, hack⟩)
  · exact .inr (.inr heq)

theorem passEffect_dataIn {b : Bus} (hp : b.phase = .dataIn) : PassEffect b b.dataInHandler := by
  obtain h | h | h := handshake_split b
  · rw [dataInHandler_of_bothHigh h]
    exact .retire hp h
  · cases hq : b.dataIn with
    | nil => rw [dataInHandler_of_nil h hq]; exact .drain hp h hq
    | cons byte rest => rw [dataInHandler_of_cons h hq]; exact .present hp h hq
  · rw [dataInHandler_of_ne h]
    exact .idle

theorem passEffect_status {b : Bus} (hp : b.phase = .status) : PassEffect b b.statusHandler := by
  obtain h | h | h := handshake_split b
  · rw [statusHandler_of_bothHigh h]
    exact .statusAck hp h
  · rw [statusHandler_of_not_handshake (handshake_of_bothLow h), (handshakeIdle_iff b).2 h]
    cases hdone : b.statusCompleted with
    | false => exact .idle
    | true => exact .toMessageIn hp h hdone
  · rw [statusHandler_of_not_handshake (handshake_of_ne h), handshakeIdle_of_ne h]
    exact .idle

theorem passEffect_messageIn {b : Bus} (hp : b.phase = .messageIn) : PassEffect b b.messageInHandler := by
  obtain h | h | h := handshake_split b
  · rw [messageInHandler_of_bothHigh h]
    exact .messageAck hp h
  · rw [messageInHandler_of_not_handshake (handshake_of_bothLow h), (handshakeIdle_iff b).2 h]
    cases hdone : b.messageCompleted with
    | false => exact .idle
    | true => exact .toBusFree hp h hdone
  · rw [messageInHandler_of_not_handshake (handshake_of_ne h), handshakeIdle_of_ne h]
    exact .idle

section
variable {s t : State}

/-- After a command: what it did, with the command buffer cleared, REQ set or neither (40_bus_fsm.md R136). -/
theorem decoded_afterCommand {u : State} (h : BusEffect s.bus u.bus) (clears : Bool) :
    Decoded s.bus (u.afterCommand clears).bus := by
  unfold State.afterCommand
  split_ifs
  · exact .stop h
  · exact .clear h
  · exact .ask h

theorem frame_afterCommand (u : State) (clears : Bool) : Frame u (u.afterCommand clears) := by
  unfold State.afterCommand
  split_ifs
  · exact .refl u
  · exact .of_writes u _ u.audio u.now u.replies u.calls u.freeCount
  · exact .of_writes u _ u.audio u.now u.replies u.calls u.freeCount

theorem commandDecode_spec (h : commandDecode s = .next t) : Decoded s.bus t.bus ∧ Frame s t := by
  obtain rfl | ⟨e, -, rfl⟩ | ⟨i, u, -, hexec, rfl⟩ := commandDecode_cases h
  · refine ⟨?_, .of_writes s _ s.audio s.now s.replies s.calls s.freeCount⟩
    by_cases hdue : s.queuedDue = true
    · rw [State.deliverQueued, if_pos hdue]
      obtain ⟨-, -, -, -, -, -, hq⟩ := (State.queuedDue_iff s).1 hdue
      exact .handOver hq
    · rw [deliverQueued_of_not_due hdue]
      exact .stop (.refl s.bus)
  · exact ⟨.ask (.refl s.bus), .of_writes s _ s.audio s.now s.replies s.calls s.freeCount⟩
  · have heffect := effect_of_exec hexec
    exact ⟨decoded_afterCommand heffect.bus _, heffect.frame.trans (frame_afterCommand u _)⟩

theorem commandHandler_spec (hp : s.bus.phase = .command) (h : commandHandler s = .next t) :
    PassEffect s.bus t.bus ∧ Frame s t := by
  obtain hhigh | hlow | hne := handshake_split s.bus
  · by_cases hlen : s.bus.commandBuffer.length < 10
    · rw [commandHandler_of_latch hhigh hlen] at h
      cases h
      exact ⟨.latch hp hhigh hlen, .of_writes s _ s.audio s.now s.replies s.calls s.freeCount⟩
    · rw [commandHandler_of_full hhigh (by omega)] at h
      cases h
      exact ⟨by rw [State.raise_bus]; exact .idle, .raise s FaultRecord.noConfusion⟩
  · rw [commandHandler_of_not_handshake (handshake_of_bothLow hlow)] at h
    obtain ⟨hdecoded, hframe⟩ := commandDecode_spec h
    exact ⟨.decode hp hlow hdecoded, hframe⟩
  · rw [commandHandler_of_not_handshake (handshake_of_ne hne),
      commandDecode_of_not_idle (handshakeIdle_of_ne hne)] at h
    cases h
    exact ⟨.idle, .refl s⟩

theorem busPass_spec (h : busPass s = .next t) : PassEffect s.bus t.bus ∧ Frame s t := by
  have hbus (b : Bus) (hb : PassEffect s.bus b) :
      PassEffect s.bus { s with bus := b }.bus ∧ Frame s { s with bus := b } :=
    ⟨hb, .of_writes s b s.audio s.now s.replies s.calls s.freeCount⟩
  by_cases hsel : selecting s.bus
  · rw [busPass_of_selecting hsel] at h
    cases h
    exact hbus _ (.select hsel)
  · obtain ⟨-, hsel', hbsy⟩ | ⟨rfl, hatn, hidle⟩ | ⟨-, rfl⟩ | ⟨hp, hcommand⟩ | ⟨hp, rfl⟩ | ⟨hp, rfl⟩ | ⟨hp, rfl⟩ |
      ⟨hp, rfl⟩ | ⟨hp, rfl⟩ := busPass_cases h
    · exact absurd ⟨hsel', hbsy⟩ hsel
    · exact hbus _ (.attend hsel hatn ((handshakeIdle_iff _).1 hidle))
    · exact ⟨.idle, .refl _⟩
    · exact commandHandler_spec hp hcommand
    · exact hbus _ (passEffect_dataIn hp)
    · exact hbus _ (.stub (.inl hp))
    · exact hbus _ (passEffect_messageIn hp)
    · exact hbus _ (.stub (.inr hp))
    · exact hbus _ (passEffect_status hp)

end

/-! ## What an Advance and a step leave alone -/

/-- The settle loop's induction with the one raise the loop makes, F1 (40_bus_fsm.md R131): `settle_keeps` asks for every
raise, which an invariant that tells the fault codes apart does not keep. -/
theorem settle_invariant {P : State → Prop} (hpass : ∀ s t, P s → busPass s = .next t → P t)
    (hraise : ∀ s phase sig, P s → P (s.raise (.noSettle phase sig))) :
    ∀ (n : Nat) (s t : State), P s → settle n s = .next t → P t := by
  intro n
  induction n with
  | zero =>
    intro s t hs h
    cases h
    exact hraise _ _ _ hs
  | succ n ih =>
    intro s t hs h
    obtain ⟨u, hu, hrest⟩ := andThen_eq_next.1 h
    have hP : P u := hpass s u hs hu
    split_ifs at hrest
    · cases hrest; exact hP
    · cases hrest; exact hP
    · exact ih u t hP hrest

section
variable {s t : State}

theorem frame_settle {n : Nat} (h : settle n s = .next t) : Frame s t :=
  settle_invariant (P := Frame s) (fun _ _ hu hpass => hu.trans (busPass_spec hpass).2)
    (fun u _ _ hu => hu.trans (.raise u FaultRecord.noConfusion)) n s t (.refl s) h

theorem frame_sectorLoad (s : State) : Frame s s.sectorLoad := by
  obtain ⟨-, h⟩ | ⟨-, -, h⟩ | ⟨-, -, h⟩ := s.sectorLoad_cases
  · rw [h]
    exact .refl s
  · rw [h]
    exact (Frame.of_writes s s.bus s.audio s.now s.replies _ s.freeCount).trans (.raise _ FaultRecord.noConfusion)
  · rw [h]
    exact .of_writes s _ s.audio s.now s.replies _ _

theorem frame_deviceReset (s : State) : Frame s s.deviceReset := by
  unfold State.deviceReset
  split_ifs
  · exact .refl s
  · exact .of_writes s _ _ s.now s.replies _ s.freeCount

theorem frame_advance {now : Nat} (h : s.advance now = .next t) : Frame s t := by
  have hnow : Frame s { s with now := now } := .of_writes s s.bus s.audio now s.replies s.calls s.freeCount
  obtain ⟨-, rfl⟩ | ⟨-, -, rfl⟩ | ⟨-, -, -, rfl⟩ | ⟨-, -, -, hsettle⟩ := State.advance_cases h
  · exact .refl _
  · exact hnow.trans (frame_deviceReset _)
  · exact hnow.trans (frame_sectorLoad _)
  · exact hnow.trans ((frame_sectorLoad _).trans (frame_settle hsettle))

theorem frame_load (s : State) (image : Bus) : Frame s (s.load image) := by
  unfold State.load
  split_ifs
  · exact .refl s
  · exact .of_writes s image s.audio s.now s.replies s.calls s.freeCount

theorem frame_synthUnknown (s : State) (d : JobDescriptor) : Frame s (s.synthUnknown d) := by
  unfold State.synthUnknown
  split_ifs
  · exact .refl s
  · split
    · exact .raise s (synthValidate_error_ne (by assumption))
    · exact .refl s

theorem synthOp_spec {d : JobDescriptor} (h : synthOp d s = .next t) : t.bus = s.bus ∧ Frame s t := by
  by_cases hv : d.variant < 4
  · have hexec : synthOp d s = exec (synthInstr d.variant d.job) s := by rw [synthOp, decodeJob_of_lt hv]
    rw [hexec, exec_synthInstr hv] at h
    cases h
    exact ⟨State.synth_bus .., (effect_synth s d.variant d.job).frame⟩
  · rw [synthOp, decodeJob_of_le (by omega)] at h
    cases h
    refine ⟨?_, frame_synthUnknown s d⟩
    unfold State.synthUnknown
    split_ifs
    · rfl
    · split
      · rw [State.raise_bus]
      · rfl

/-- Of the host's operations only a new destination is outside the frame. -/
theorem frame_perform {op : HostOp} (hop : ∀ bytes, op ≠ .provideDest bytes) (h : perform op s = .next t) : Frame s t := by
  cases op with
  | advance now => exact frame_advance h
  | synth d => exact (synthOp_spec h).2
  | provideDest bytes => exact absurd rfl (hop bytes)
  | reset => cases h; exact frame_deviceReset s
  | load image => cases h; exact frame_load s image
  | writeSignal l v => cases h; exact .of_writes s _ s.audio s.now s.replies s.calls s.freeCount
  | writeData v => cases h; exact .of_writes s _ s.audio s.now s.replies s.calls s.freeCount
  | ackInterrupt => cases h; exact .of_writes s _ s.audio s.now s.replies s.calls s.freeCount
  | audioMoves mode sector => cases h; exact .of_writes s s.bus _ s.now s.replies s.calls s.freeCount
  | readSignals | readData | readFault | save =>
    cases h
    exact .of_writes s s.bus s.audio s.now _ s.calls s.freeCount

theorem perform_keeps_setup {op : HostOp} (h : perform op s = .next t) :
    t.params = s.params ∧ t.disc = s.disc ∧ t.inputs = s.inputs := by
  by_cases hop : ∃ bytes, op = .provideDest bytes
  · obtain ⟨bytes, rfl⟩ := hop
    cases h
    exact ⟨rfl, rfl, rfl⟩
  · obtain ⟨hparams, hdisc, hinputs, -⟩ := frame_perform (fun bytes heq => hop ⟨bytes, heq⟩) h
    exact ⟨hparams, hdisc, hinputs⟩

/-- Settles O57: the opcode bytes by evaluation, the rest because no operation of the host writes either. -/
theorem parametersAndDiscAreConstant : Obligations.ParametersAndDiscAreConstant := by
  unfold Obligations.ParametersAndDiscAreConstant
  refine ⟨by decide, fun s t h => ?step⟩
  case step =>
    obtain ⟨-, rfl⟩ | ⟨op, rest, -, hop⟩ := nextOperation_cases h
    · exact ⟨rfl, rfl⟩
    · obtain ⟨hparams, hdisc, -⟩ := perform_keeps_setup hop
      exact ⟨hparams, hdisc⟩

end

/-! ## Every step answers a next state (60_exceptions.md R300) -/

theorem commandDecode_answers (s : State) : ∃ t, commandDecode s = .next t := by
  unfold commandDecode
  split_ifs
  · split
    · exact ⟨_, rfl⟩
    · rename_i i _
      obtain ⟨u, hu⟩ := exec_answers i s
      rw [hu]
      exact ⟨_, rfl⟩
  · exact ⟨_, rfl⟩

theorem commandHandler_answers (s : State) : ∃ t, commandHandler s = .next t := by
  unfold commandHandler
  split_ifs
  · exact ⟨_, rfl⟩
  · exact commandDecode_answers _
  · exact commandDecode_answers s

theorem busPass_answers (s : State) : ∃ t, busPass s = .next t := by
  unfold busPass
  split_ifs
  · exact ⟨_, rfl⟩
  · exact ⟨_, rfl⟩
  · cases s.bus.phase with
    | command => exact commandHandler_answers s
    | busFree | dataIn | dataOut | messageIn | messageOut | status => exact ⟨_, rfl⟩

theorem settle_answers (n : Nat) : ∀ s : State, ∃ t, settle n s = .next t := by
  induction n with
  | zero => exact fun s => ⟨_, rfl⟩
  | succ n ih =>
    intro s
    obtain ⟨u, hu⟩ := busPass_answers s
    rw [settle, hu, andThen_next]
    split_ifs
    · exact ⟨u, rfl⟩
    · exact ⟨u, rfl⟩
    · exact ih u

theorem advance_answers (s : State) (now : Nat) : ∃ t, s.advance now = .next t := by
  unfold State.advance
  dsimp only
  split_ifs
  · exact ⟨_, rfl⟩
  · exact ⟨_, rfl⟩
  · exact ⟨_, rfl⟩
  · exact settle_answers _ _

theorem synthOp_answers (d : JobDescriptor) (s : State) : ∃ t, synthOp d s = .next t := by
  obtain ⟨c, main, h⟩ | ⟨-, h⟩ := synthOp_cases d s
  · exact ⟨_, h⟩
  · exact ⟨_, h⟩

theorem perform_answers (op : HostOp) (s : State) : ∃ t, perform op s = .next t := by
  cases op with
  | advance now => exact advance_answers s now
  | synth d => exact synthOp_answers d s
  | writeSignal | writeData | reset | ackInterrupt | readSignals | readData | readFault | save | load | provideDest |
    audioMoves => exact ⟨_, rfl⟩

/-- Settles O41: no operation of the host ends otherwise, the settle loop by induction on its passes. -/
theorem everyStepAnswersNext : Obligations.EveryStepAnswersNext := by
  unfold Obligations.EveryStepAnswersNext
  intro s
  cases hin : s.inputs with
  | nil => exact ⟨s, by simp [step, nextOperation, hin]⟩
  | cons op rest =>
    rw [step_of_inputs hin]
    exact perform_answers op _

/-! ## The phase graph (40_bus_fsm.md R149) -/

theorem BusEffect.phase_cases {b c : Bus} (h : BusEffect b c) :
    c.phase = b.phase ∨ c.phase = .status ∨ c.phase = .dataIn := by
  cases h with
  | queue hq => exact .inl rfl
  | status start stop => exact .inr (.inl rfl)
  | answer hne hlen => exact .inr (.inr rfl)
  | read lba hpos hle deadline => exact .inl rfl

theorem Decoded.phase_cases {b c : Bus} (h : Decoded b c) :
    c.phase = b.phase ∨ c.phase = .status ∨ c.phase = .dataIn := by
  cases h with
  | handOver hq => exact .inr (.inr (b.setPhase_phase _))
  | stop h => exact h.phase_cases
  | clear h => exact h.phase_cases
  | ask h => exact h.phase_cases

theorem drain_phase (b : Bus) : b.drain.phase = .status := Bus.enterGoodStatus_phase _

/-- Settles O33, by the cases of a pass. -/
theorem phaseGraphOfPass : Obligations.PhaseGraphOfPass := by
  unfold Obligations.PhaseGraphOfPass
  intro s t h
  obtain ⟨heffect, -⟩ := busPass_spec h
  generalize t.bus = c at heffect
  cases heffect with
  | idle | latch hp hhigh hlen | retire hp hhigh | present hp hlow hq | statusAck hp hhigh | messageAck hp hhigh =>
    exact .inl rfl
  | select hsel => exact .inr (.inl ⟨hsel, Bus.setPhase_phase ..⟩)
  | attend hsel hatn hlow => exact .inr (.inr (.inl ⟨hsel, hatn, hlow, Bus.setPhase_phase ..⟩))
  | decode hp hlow hdecoded =>
    obtain hsame | hentered := hdecoded.phase_cases
    · exact .inl hsame
    · exact .inr (.inr (.inr (.inl ⟨hp, hlow, hentered⟩)))
  | drain hp hlow hq => exact .inr (.inr (.inr (.inr (.inl ⟨hp, hlow, hq, drain_phase s.bus⟩))))
  | toMessageIn hp hlow hdone =>
    exact .inr (.inr (.inr (.inr (.inr (.inl ⟨hp, hlow, hdone, Bus.setPhase_phase ..⟩)))))
  | toBusFree hp hlow hdone =>
    exact .inr (.inr (.inr (.inr (.inr (.inr (.inl ⟨hp, hlow, hdone, Bus.setPhase_phase ..⟩))))))
  | stub hp => exact .inr (.inr (.inr (.inr (.inr (.inr (.inr ⟨hp, Bus.setPhase_phase ..⟩))))))

end Sys2Proof.Proofs.Effects
end

section
/-! PROOFS. The invariants of a run: the bounds of the device and of the destination buffer (10_state.md R24 to R27,
42_codecs.md R225), and the rules of the two interrupt lines (60_exceptions.md R310, R311). -/

namespace Sys2Proof.Proofs.Invariants
open Machine Claims
open BusFsm Effects
open Exceptions (deviceReset_of_fault)
open ResetAndHazards (deviceReset_of_no_fault)

/-! ## The bounds of the device (10_state.md R24, R25, R27; 42_codecs.md R225) -/

section
variable {b c : Bus}

/-- The bounds speak of four fields only. -/
theorem busBounds_of_eq (h : busBounds b) (hbuf : c.commandBuffer = b.commandBuffer) (hq : c.dataIn = b.dataIn)
    (hleft : c.sectorsLeftToRead = b.sectorsLeftToRead) (hread : c.dataReadInProgress = b.dataReadInProgress) :
    busBounds c := by
  rwa [busBounds, hbuf, hq, hleft, hread]

theorem busBounds_setPhase (h : busBounds b) (p : BusPhase) : busBounds (b.setPhase p) :=
  busBounds_of_eq h (by simp) (by simp) (by simp) (by simp)

/-- A shorter command buffer or queue is in bounds too. -/
theorem busBounds_of_le (h : busBounds b) (hbuf : c.commandBuffer.length ≤ 10) (hq : c.dataIn.length ≤ b.dataIn.length)
    (hleft : c.sectorsLeftToRead = b.sectorsLeftToRead) (hread : c.dataReadInProgress = b.dataReadInProgress) :
    busBounds c := by
  obtain ⟨-, hqueue, hcount, hpos⟩ := h
  exact ⟨hbuf, hq.trans hqueue, hleft ▸ hcount, fun hr => hleft ▸ hpos (hread ▸ hr)⟩

theorem BusEffect.keeps_busBounds (heffect : BusEffect b c) (h : busBounds b) : busBounds c := by
  obtain ⟨hbuf, hqueue, hcount, hpos⟩ := h
  cases heffect with
  | queue hq =>
    obtain rfl | rfl := hq
    · exact ⟨hbuf, hqueue, hcount, hpos⟩
    · exact ⟨hbuf, Nat.zero_le _, hcount, hpos⟩
  | status start stop => exact ⟨hbuf, hqueue, hcount, hpos⟩
  | answer hne hlen => exact ⟨hbuf, hlen, hcount, hpos⟩
  | read lba hpos' hle deadline => exact ⟨hbuf, hqueue, hle, fun _ => hpos'⟩

theorem Decoded.keeps_busBounds (hdecoded : Decoded b c) (h : busBounds b) : busBounds c := by
  cases hdecoded with
  | handOver hq => exact busBounds_setPhase h _
  | stop heffect => exact BusEffect.keeps_busBounds heffect h
  | clear heffect =>
    exact busBounds_of_le (BusEffect.keeps_busBounds heffect h) (Nat.zero_le _) le_rfl rfl rfl
  | ask heffect => exact busBounds_of_eq (BusEffect.keeps_busBounds heffect h) rfl rfl rfl rfl

theorem busBounds_drain (h : busBounds b) : busBounds b.drain := by
  unfold Bus.drain
  dsimp only
  split_ifs <;> exact busBounds_of_eq h (by simp) (by simp) (by simp) (by simp)

theorem PassEffect.keeps_busBounds (hpass : PassEffect b c) (h : busBounds b) : busBounds c := by
  cases hpass with
  | idle => exact h
  | retire | statusAck | messageAck => exact busBounds_of_eq h rfl rfl rfl rfl
  | select | attend | stub => exact busBounds_setPhase h _
  | toMessageIn | toBusFree => exact busBounds_of_eq h (by simp) (by simp) (by simp) (by simp)
  | latch hp hhigh hlen =>
    refine busBounds_of_le h ?_ le_rfl rfl rfl
    simp only [Bus.setReq_commandBuffer, List.length_append, List.length_singleton]
    omega
  | decode hp hlow hdecoded => exact Decoded.keeps_busBounds hdecoded h
  | present hp hlow hq =>
    obtain ⟨hbuf, -⟩ := id h
    exact busBounds_of_le h hbuf (by simp [hq]) rfl rfl
  | drain hp hlow hq => exact busBounds_drain h

end

/-- A load fills an empty queue with one sector and leaves a read in progress only with sectors to come (R141). -/
theorem busBounds_afterLoad {b : Bus} (h : busBounds b) {bytes : List Byte} (hlen : bytes.length = 2048) {left : Nat}
    (hleft : left ≤ 256) : busBounds ({ b with dataIn := bytes }.afterLoad left) := by
  obtain ⟨hbuf, -⟩ := h
  rw [afterLoad_eq_inDataIn]
  refine ⟨hbuf, hlen.le, hleft, fun hread => ?_⟩
  by_contra hzero
  have hzero' : left = 0 := Nat.eq_zero_of_not_pos hzero
  simp [inDataIn, hzero'] at hread

theorem sectorsAfterLoad_le {n drawn : Nat} (h : n ≤ 256) : sectorsAfterLoad n drawn ≤ 256 := by
  cases n with
  | zero => exact Nat.le_of_lt_succ (Config.sectorsLeftBelowZero drawn).isLt
  | succ k => exact Nat.le_of_succ_le h

section
variable {s t : State}

theorem busBounds_sectorLoad (h : busBounds s.bus) : busBounds s.sectorLoad.bus := by
  obtain ⟨-, hload⟩ | ⟨-, -, hload⟩ | ⟨-, hlen, hload⟩ := s.sectorLoad_cases
  · rwa [hload]
  · rwa [hload, State.raise_bus]
  · obtain ⟨-, -, hcount, -⟩ := id h
    rw [hload]
    exact busBounds_afterLoad h hlen (sectorsAfterLoad_le hcount)

theorem busBounds_deviceReset (h : busBounds s.bus) : busBounds s.deviceReset.bus := by
  obtain ⟨-, -, hcount, -⟩ := id h
  unfold State.deviceReset
  split_ifs
  · exact h
  · exact ⟨Nat.zero_le _, Nat.zero_le _, hcount, fun hread => absurd hread Bool.false_ne_true⟩

theorem busBounds_settle {n : Nat} (h : busBounds s.bus) (hsettle : settle n s = .next t) : busBounds t.bus := by
  refine settle_invariant (P := fun u => busBounds u.bus) (fun u v hu hpass => ?_) (fun u phase sig hu => ?_) n s t h hsettle
  · exact PassEffect.keeps_busBounds (busPass_spec hpass).1 hu
  · rwa [State.raise_bus]

theorem busBounds_advance {now : Nat} (h : busBounds s.bus) (hadvance : s.advance now = .next t) : busBounds t.bus := by
  obtain ⟨-, rfl⟩ | ⟨-, -, rfl⟩ | ⟨-, -, -, rfl⟩ | ⟨-, -, -, hsettle⟩ := State.advance_cases hadvance
  · exact h
  · exact busBounds_deviceReset h
  · exact busBounds_sectorLoad h
  · exact busBounds_settle (busBounds_sectorLoad (s := { s with now := now }) h) hsettle

theorem busBounds_perform {op : HostOp} (h : busBounds s.bus) (himage : ∀ image, op = .load image → busBounds image)
    (hop : perform op s = .next t) : busBounds t.bus := by
  cases op with
  | advance now => exact busBounds_advance h hop
  | synth d => rw [(synthOp_spec hop).1]; exact h
  | reset => cases hop; exact busBounds_deviceReset h
  | load image =>
    cases hop
    unfold State.load
    split_ifs
    · exact h
    · exact himage image rfl
  | writeSignal | writeData | ackInterrupt | readSignals | readData | readFault | save | provideDest | audioMoves =>
    cases hop
    exact h

/-! ## The bounds of the destination buffer, and F8 (20_memory.md R64, 60_exceptions.md R301) -/

theorem destInBuffer_provideDest (s : State) (bytes : List Byte) : destInBuffer (s.provideDest bytes) :=
  ⟨cellsOf_wf 0 bytes, fun c hc => by have := mem_cellsOf hc; simp; omega⟩

theorem destInBuffer_perform {op : HostOp} (h : destInBuffer s) (hop : perform op s = .next t) : destInBuffer t := by
  by_cases hdest : ∃ bytes, op = .provideDest bytes
  · obtain ⟨bytes, rfl⟩ := hdest
    cases hop
    exact destInBuffer_provideDest s bytes
  · exact (frame_perform (fun bytes heq => hdest ⟨bytes, heq⟩) hop).dest h

theorem no_queueOverflow_perform {op : HostOp} (h : s.fault ≠ some .queueOverflow) (hop : perform op s = .next t) :
    t.fault ≠ some .queueOverflow := by
  by_cases hdest : ∃ bytes, op = .provideDest bytes
  · obtain ⟨bytes, rfl⟩ := hdest
    cases hop
    exact h
  · exact fun hover => h ((frame_perform (fun bytes heq => hdest ⟨bytes, heq⟩) hop).fault hover)

end

/-- Settles O39: each operation keeps each part of the invariant, and the operations to come are fewer. -/
theorem stepKeepsInvariant : Obligations.StepKeepsInvariant := by
  unfold Obligations.StepKeepsInvariant
  intro s t ⟨hbus, hwf, hbound, hfault, himages⟩ hstep
  obtain ⟨-, rfl⟩ | ⟨op, rest, hin, hop⟩ := nextOperation_cases hstep
  · exact ⟨hbus, hwf, hbound, hfault, himages⟩
  · have hnow : ∀ image, op = .load image → busBounds image := fun image heq => himages image (by simp [hin, heq])
    have hlater : ∀ image, HostOp.load image ∈ rest → busBounds image := fun image hmem => himages image (by simp [hin, hmem])
    obtain ⟨hwf', hbound'⟩ := destInBuffer_perform (s := { s with inputs := rest }) ⟨hwf, hbound⟩ hop
    obtain ⟨-, -, hinputs⟩ := perform_keeps_setup hop
    refine ⟨busBounds_perform (s := { s with inputs := rest }) hbus hnow hop, hwf', hbound',
      no_queueOverflow_perform (s := { s with inputs := rest }) hfault hop, fun image hmem => hlater image ?_⟩
    rwa [hinputs] at hmem

/-- Settles O40: the invariant by evaluation; in BusFree with every line low an Advance has nothing to do. -/
theorem resetSatisfiesInvariant : Obligations.ResetSatisfiesInvariant := by
  unfold Obligations.ResetSatisfiesInvariant
  refine ⟨⟨by decide, by decide, by simp [State.reset], by decide, by simp [State.reset]⟩, fun now => rfl⟩

/-! ## The interrupt lines (60_exceptions.md R310, R311) -/

/-- The next pass finds DataIn with nothing left to present: it drains (40_bus_fsm.md R137), unless selection or attention
comes first. -/
abbrev drains (b : Bus) : Prop := b.phase = .dataIn ∧ bothLow b ∧ b.dataIn = []

/-- What the passes of one Advance can have done to the interrupt lines of a device: nothing yet; or the drain, which was
possible at the start and is not possible again. -/
inductive LinesAfter (b c : Bus) : Prop where
  | kept (hready : c.intDataTransferReady = b.intDataTransferReady)
    (hcomplete : c.intDataTransferComplete = b.intDataTransferComplete) (hdrains : drains c → drains b)
    (hdone : c.dataTransferWasDone = true → b.dataTransferWasDone = true)
  | drained (hdrains : drains b) (hnot : ¬ drains c) (hready : c.intDataTransferReady = false)
    (hcomplete : c.intDataTransferComplete = b.intDataTransferComplete ∨
      b.dataTransferWasDone = true ∧ c.intDataTransferComplete = true ∧ c.dataTransferWasDone = false)

section
variable {b c d : Bus}

theorem LinesAfter.refl (b : Bus) : LinesAfter b b := .kept rfl rfl id id

theorem LinesAfter.trans (hbc : LinesAfter b c) (hcd : LinesAfter c d) : LinesAfter b d := by
  cases hbc with
  | kept hready hcomplete hdrains hdone =>
    cases hcd with
    | kept hready' hcomplete' hdrains' hdone' =>
      exact .kept (hready'.trans hready) (hcomplete'.trans hcomplete) (hdrains ∘ hdrains') (hdone ∘ hdone')
    | drained hdrains' hnot hready' hcomplete' =>
      refine .drained (hdrains hdrains') hnot hready' ?_
      rw [← hcomplete]
      exact hcomplete'.imp_right (And.imp_left hdone)
  | drained hdrains hnot hready hcomplete =>
    cases hcd with
    | kept hready' hcomplete' hdrains' hdone' =>
      refine .drained hdrains (hnot ∘ hdrains') (hready'.trans hready) ?_
      obtain hsame | ⟨hwas, hraised, hcleared⟩ := hcomplete
      · exact .inl (hcomplete'.trans hsame)
      · refine .inr ⟨hwas, hcomplete'.trans hraised, ?_⟩
        rw [← Bool.not_eq_true] at hcleared ⊢
        exact hcleared ∘ hdone'
    | drained hdrains' => exact absurd hdrains' hnot

/-- Outside DataIn there is nothing to drain. -/
theorem not_drains_of_phase (h : c.phase ≠ .dataIn) : ¬ drains c := fun hd => h hd.1

/-- A change that keeps the lines and leaves DataIn, or bytes in the queue, or REQ or ACK high. -/
theorem LinesAfter.of_not_drains (hready : c.intDataTransferReady = b.intDataTransferReady)
    (hcomplete : c.intDataTransferComplete = b.intDataTransferComplete) (hnot : ¬ drains c)
    (hdone : c.dataTransferWasDone = true → b.dataTransferWasDone = true) : LinesAfter b c :=
  .kept hready hcomplete (fun h => absurd h hnot) hdone

theorem linesAfter_setPhase (b : Bus) {p : BusPhase} (h : p ≠ .dataIn) : LinesAfter b (b.setPhase p) :=
  .of_not_drains (by simp) (by simp) (not_drains_of_phase (by simpa using h)) (by simp)

theorem BusEffect.linesAfter (hp : b.phase = .command) (heffect : BusEffect b c) : ¬ drains c ∧ LinesAfter b c := by
  have hcommand : b.phase ≠ .dataIn := by simp [hp]
  have hnot : ¬ drains c := by
    cases heffect with
    | queue hq => exact not_drains_of_phase hcommand
    | status start stop => exact not_drains_of_phase (by simp [inStatus])
    | answer hne hlen => exact fun ⟨_, _, hq⟩ => hne hq
    | read lba hpos hle deadline => exact not_drains_of_phase hcommand
  refine ⟨hnot, ?_⟩
  cases heffect with
  | queue | status | answer => exact .of_not_drains rfl rfl hnot id
  | read => exact .of_not_drains rfl rfl hnot fun h => absurd h Bool.false_ne_true

theorem Decoded.linesAfter (hp : b.phase = .command) (hdecoded : Decoded b c) : LinesAfter b c := by
  cases hdecoded with
  | handOver hq =>
    refine .of_not_drains (by simp) (by simp) (fun ⟨_, _, hempty⟩ => hq ?_) (by simp)
    rwa [Bus.setPhase_dataIn] at hempty
  | stop heffect => exact (BusEffect.linesAfter hp heffect).2
  | clear heffect =>
    obtain ⟨hnot, hlines⟩ := BusEffect.linesAfter hp heffect
    exact hlines.trans (.of_not_drains rfl rfl hnot id)
  | ask heffect =>
    obtain ⟨-, hlines⟩ := BusEffect.linesAfter hp heffect
    exact hlines.trans (.of_not_drains rfl rfl (fun ⟨_, ⟨hreq, _⟩, _⟩ => absurd hreq (by simp)) id)

theorem linesAfter_drain (h : drains b) : LinesAfter b b.drain := by
  have hnot : ¬ drains b.drain := not_drains_of_phase (by rw [drain_phase]; exact BusPhase.noConfusion)
  cases hdone : b.dataTransferWasDone with
  | true => exact .drained h hnot (by rw [drain_of_done hdone]; rfl) (.inr ⟨hdone, by rw [drain_of_done hdone]; exact ⟨rfl, rfl⟩⟩)
  | false => exact .drained h hnot (by rw [drain_of_not_done hdone]; rfl) (.inl (by rw [drain_of_not_done hdone]; rfl))

theorem PassEffect.linesAfter (hpass : PassEffect b c) : LinesAfter b c := by
  cases hpass with
  | idle => exact .refl b
  | select hsel => exact linesAfter_setPhase b (by decide)
  | attend hsel hatn hlow => exact linesAfter_setPhase b (by decide)
  | stub hp => exact linesAfter_setPhase b (by decide)
  | decode hp hlow hdecoded => exact Decoded.linesAfter hp hdecoded
  | drain hp hlow hq => exact linesAfter_drain ⟨hp, hlow, hq⟩
  | latch hp hhigh hlen | statusAck hp hhigh | messageAck hp hhigh | retire hp hhigh =>
    exact .of_not_drains rfl rfl (fun ⟨_, ⟨_, hack⟩, _⟩ => absurd (hhigh.2.symm.trans hack) (by decide)) id
  | present hp hlow hq => exact .of_not_drains rfl rfl (fun ⟨_, ⟨hreq, _⟩, _⟩ => absurd hreq (by simp)) id
  | toMessageIn hp hlow hdone | toBusFree hp hlow hdone =>
    exact .of_not_drains (by simp) (by simp) (not_drains_of_phase (by simp)) (by simp)

end

section
variable {s t : State}

theorem linesAfter_settle {n : Nat} (h : settle n s = .next t) : LinesAfter s.bus t.bus := by
  refine settle_invariant (P := fun u => LinesAfter s.bus u.bus) (fun u v hu hpass => ?_) (fun u phase sig hu => ?_) n s t
    (.refl s.bus) h
  · exact hu.trans (PassEffect.linesAfter (busPass_spec hpass).1)
  · rwa [State.raise_bus]

/-- A load raises the ready line, keeps the other, and leaves bytes to present. -/
theorem linesAfter_load {now : Nat} (hdue : due s.bus now) (hf : { s with now := now }.sectorLoad.faulted = false) :
    { s with now := now }.sectorLoad.bus.intDataTransferReady = true ∧
    { s with now := now }.sectorLoad.bus.intDataTransferComplete = s.bus.intDataTransferComplete ∧
    ¬ drains { s with now := now }.sectorLoad.bus := by
  obtain ⟨hnot, -⟩ | ⟨-, -, hload⟩ | ⟨-, hlen, hload⟩ := State.sectorLoad_cases { s with now := now }
  · exact absurd ((State.loadDue_iff { s with now := now }).2 hdue) (by rw [hnot]; decide)
  · rw [hload, State.raise_faulted] at hf
    exact absurd hf (by decide)
  · rw [hload, afterLoad_eq_inDataIn]
    refine ⟨rfl, rfl, fun ⟨_, _, hempty⟩ => ?_⟩
    have hnil : s.disc.readBlock s.bus.currentReadingSector 2048 = [] := hempty
    rw [hnil] at hlen
    exact absurd hlen (by decide)

/-- What an Advance can do to the interrupt lines: nothing; the reset; a load; or what its passes do. -/
theorem advance_lines {now : Nat} (h : s.advance now = .next t) :
    (t.bus.intDataTransferReady = s.bus.intDataTransferReady ∧
      t.bus.intDataTransferComplete = s.bus.intDataTransferComplete) ∨
    s.fault = none ∧
      ((s.bus.sig.rst = true ∧ t.bus.intDataTransferReady = false ∧
          t.bus.intDataTransferComplete = s.bus.intDataTransferComplete) ∨
        (s.bus.sig.rst = false ∧ due s.bus now ∧ t.bus.intDataTransferReady = true ∧
          t.bus.intDataTransferComplete = s.bus.intDataTransferComplete) ∨
        (¬ due s.bus now ∧ LinesAfter s.bus t.bus)) := by
  obtain ⟨-, rfl⟩ | ⟨hf, hrst, rfl⟩ | ⟨hf, -, hload, rfl⟩ | ⟨hf, hrst, hload, hsettle⟩ := State.advance_cases h
  · exact .inl ⟨rfl, rfl⟩
  · have hnone : s.fault = none := (State.faulted_eq_false s).1 hf
    rw [deviceReset_of_no_fault (s := { s with now := now }) hnone]
    exact .inr ⟨hnone, .inl ⟨hrst, rfl, rfl⟩⟩
  · obtain ⟨-, hsame⟩ | ⟨-, -, hraised⟩ | ⟨-, -, hqueued⟩ := State.sectorLoad_cases { s with now := now }
    · rw [hsame]
      exact .inl ⟨rfl, rfl⟩
    · rw [hraised, State.raise_bus]
      exact .inl ⟨rfl, rfl⟩
    · rw [hqueued] at hload
      have hfaulted : s.faulted = true := hload
      exact absurd (hf.symm.trans hfaulted) (by decide)
  · have hnone : s.fault = none := (State.faulted_eq_false s).1 hf
    have hlines := linesAfter_settle hsettle
    by_cases hdue : due s.bus now
    · obtain ⟨hready, hcomplete, hnot⟩ := linesAfter_load hdue hload
      cases hlines with
      | kept hready' hcomplete' =>
        exact .inr ⟨hnone, .inr (.inl ⟨hrst, hdue, hready'.trans hready, hcomplete'.trans hcomplete⟩)⟩
      | drained hdrains => exact absurd hdrains hnot
    · have hnoload : { s with now := now }.loadDue ≠ true := mt (State.loadDue_iff _).1 hdue
      rw [State.sectorLoad, if_neg hnoload] at hlines
      exact .inr ⟨hnone, .inr (.inr ⟨hdue, hlines⟩)⟩

/-- The operations that do not reach the interrupt lines. -/
theorem perform_keeps_lines {op : HostOp} (hadvance : ∀ now, op ≠ .advance now) (hreset : op ≠ .reset)
    (hload : ∀ image, op ≠ .load image) (hack : op ≠ .ackInterrupt) (h : perform op s = .next t) :
    t.bus.intDataTransferReady = s.bus.intDataTransferReady ∧
      t.bus.intDataTransferComplete = s.bus.intDataTransferComplete := by
  cases op with
  | advance now => exact absurd rfl (hadvance now)
  | reset => exact absurd rfl hreset
  | load image => exact absurd rfl (hload image)
  | ackInterrupt => exact absurd rfl hack
  | synth d => rw [(synthOp_spec h).1]; exact ⟨rfl, rfl⟩
  | writeSignal | writeData | readSignals | readData | readFault | save | provideDest | audioMoves =>
    cases h
    exact ⟨rfl, rfl⟩

theorem deviceReset_lines (s : State) :
    (s.deviceReset.bus.intDataTransferReady = s.bus.intDataTransferReady ∨
      s.fault = none ∧ s.deviceReset.bus.intDataTransferReady = false) ∧
    s.deviceReset.bus.intDataTransferComplete = s.bus.intDataTransferComplete := by
  by_cases hf : s.fault = none
  · rw [deviceReset_of_no_fault hf]
    exact ⟨.inr ⟨hf, rfl⟩, rfl⟩
  · rw [deviceReset_of_fault hf]
    exact ⟨.inl rfl, rfl⟩

/-- The rules of the two lines for one operation of the host, as the statement has them. -/
def linesFollowRules (s t : State) (op : HostOp) : Prop :=
  (s.bus.intDataTransferReady = false → t.bus.intDataTransferReady = true →
    ∃ now, op = .advance now ∧ due s.bus now ∧ s.fault = none ∧ s.bus.sig.rst = false) ∧
  (s.bus.intDataTransferReady = true → t.bus.intDataTransferReady = false → s.fault = none ∧
    (op = .reset ∨ ∃ now, op = .advance now ∧ (s.bus.sig.rst = true ∨
      (s.bus.phase = .dataIn ∧ bothLow s.bus ∧ s.bus.dataIn = [] ∧ ¬ due s.bus now)))) ∧
  (s.bus.intDataTransferComplete = false → t.bus.intDataTransferComplete = true →
    (∃ now, op = .advance now) ∧ s.bus.dataTransferWasDone = true ∧ t.bus.dataTransferWasDone = false ∧
      t.bus.intDataTransferReady = false) ∧
  (s.bus.intDataTransferComplete = true → t.bus.intDataTransferComplete = false → op = .ackInterrupt)

/-- Where neither line changes there is nothing to explain. -/
theorem linesFollowRules_of_kept {op : HostOp} (hready : t.bus.intDataTransferReady = s.bus.intDataTransferReady)
    (hcomplete : t.bus.intDataTransferComplete = s.bus.intDataTransferComplete) : linesFollowRules s t op := by
  unfold linesFollowRules
  rw [hready, hcomplete]
  refine ⟨fun h h' => ?_, fun h h' => ?_, fun h h' => ?_, fun h h' => ?_⟩ <;> simp [h] at h'

theorem linesFollowRules_advance {now : Nat} (h : s.advance now = .next t) : linesFollowRules s t (.advance now) := by
  obtain ⟨hready, hcomplete⟩ | ⟨hf, hcases⟩ := advance_lines h
  · exact linesFollowRules_of_kept hready hcomplete
  · obtain ⟨hrst, hready, hcomplete⟩ | ⟨hrst, hdue, hready, hcomplete⟩ | ⟨hnot, hlines⟩ := hcases
    · refine ⟨fun _ h' => ?_, fun _ _ => ⟨hf, .inr ⟨now, rfl, .inl hrst⟩⟩, fun h h' => ?_, fun h h' => ?_⟩
      · simp [hready] at h'
      · simp [hcomplete, h] at h'
      · simp [hcomplete, h] at h'
    · refine ⟨fun _ _ => ⟨now, rfl, hdue, hf, hrst⟩, fun _ h' => ?_, fun h h' => ?_, fun h h' => ?_⟩
      · simp [hready] at h'
      · simp [hcomplete, h] at h'
      · simp [hcomplete, h] at h'
    · cases hlines with
      | kept hready hcomplete => exact linesFollowRules_of_kept hready hcomplete
      | drained hdrains _ hready hcomplete =>
        obtain ⟨hphase, hlow, hempty⟩ := hdrains
        refine ⟨fun _ h' => ?_, fun _ _ => ⟨hf, .inr ⟨now, rfl, .inr ⟨hphase, hlow, hempty, hnot⟩⟩⟩, fun h h' => ?_,
          fun h h' => ?_⟩
        · simp [hready] at h'
        · obtain hsame | ⟨hwas, -, hcleared⟩ := hcomplete
          · simp [hsame, h] at h'
          · exact ⟨⟨now, rfl⟩, hwas, hcleared, hready⟩
        · obtain hsame | ⟨-, hraised, -⟩ := hcomplete
          · simp [hsame, h] at h'
          · simp [hraised] at h'

theorem linesFollowRules_reset (s : State) : linesFollowRules s s.deviceReset .reset := by
  obtain ⟨hready | ⟨hf, hready⟩, hcomplete⟩ := deviceReset_lines s
  · exact linesFollowRules_of_kept hready hcomplete
  · refine ⟨fun _ h' => ?_, fun _ _ => ⟨hf, .inl rfl⟩, fun h h' => ?_, fun h h' => ?_⟩
    · simp [hready] at h'
    · simp [hcomplete, h] at h'
    · simp [hcomplete, h] at h'

theorem linesFollowRules_perform {op : HostOp} (hload : ∀ image, op ≠ .load image) (h : perform op s = .next t) :
    linesFollowRules s t op := by
  by_cases hadvance : ∃ now, op = .advance now
  · obtain ⟨now, rfl⟩ := hadvance
    exact linesFollowRules_advance h
  by_cases hreset : op = .reset
  · subst hreset
    cases h
    exact linesFollowRules_reset s
  by_cases hack : op = .ackInterrupt
  · subst hack
    cases h
    refine ⟨fun h h' => ?_, fun h h' => ?_, fun _ h' => absurd h' Bool.false_ne_true, fun _ _ => rfl⟩ <;> simp [h] at h'
  · obtain ⟨hready, hcomplete⟩ := perform_keeps_lines (fun now heq => hadvance ⟨now, heq⟩) hreset hload hack h
    exact linesFollowRules_of_kept hready hcomplete

end

/-- Settles O38, by the operation that the step performs. -/
theorem interruptLinesFollowTheirRules : Obligations.InterruptLinesFollowTheirRules := by
  unfold Obligations.InterruptLinesFollowTheirRules
  intro s t op rest hin hstep hload
  rw [step_of_inputs hin] at hstep
  exact linesFollowRules_perform (s := { s with inputs := rest }) hload hstep

end Sys2Proof.Proofs.Invariants
end

section
/-! PROOFS. A run depends on the persisted state and its inputs alone (20_memory.md R82): two machines that agree on them
do the same, operation by operation, whatever else tells them apart. -/

namespace Sys2Proof.Proofs.Twins
open Machine Claims
open BusFsm Effects
open Synth (exec_synthInstr decodeJob_of_lt decodeJob_of_le)
open Commands (exec_audioStartPos_of_error exec_audioStartPos_of_ok exec_audioEndPos_of_error exec_audioEndPos_of_ok
  exec_readSubcodeQ)

/-- Two machines part way through the same operation: they agree on what `sameRun` names, and on the clock where `clock`
says so (inside an Advance, which sets it), and they have made the same calls and given the same answers since `s₀` and
`t₀`. -/
structure Twin (clock : Prop) (s₀ t₀ s t : State) : Prop where
  bus : s.bus = t.bus
  fault : s.fault = t.fault
  params : s.params = t.params
  audio : s.audio = t.audio
  disc : s.disc = t.disc
  destLen : s.destLen = t.destLen
  inputs : s.inputs = t.inputs
  now : clock → s.now = t.now
  calls : ∃ cs, s.calls = s₀.calls ++ cs ∧ t.calls = t₀.calls ++ cs
  replies : ∃ rs, s.replies = s₀.replies ++ rs ∧ t.replies = t₀.replies ++ rs

/-- Two answers that are next states of two machines alike. -/
inductive TwinAnswers (clock : Prop) (s₀ t₀ : State) : Answer → Answer → Prop where
  | next {s t : State} (h : Twin clock s₀ t₀ s t) : TwinAnswers clock s₀ t₀ (.next s) (.next t)

section
variable {clock : Prop} {s₀ t₀ s t : State}

theorem Twin.anyClock (h : Twin True s₀ t₀ s t) : Twin clock s₀ t₀ s t := { h with now := fun _ => h.now trivial }

theorem TwinAnswers.anyClock {o p : Answer} (h : TwinAnswers True s₀ t₀ o p) : TwinAnswers clock s₀ t₀ o p := by
  cases h with
  | next h => exact .next h.anyClock

/-! ## The shared operations of the machine -/

theorem Twin.faulted (h : Twin clock s₀ t₀ s t) : s.faulted = t.faulted := congrArg Option.isSome h.fault

theorem Twin.withBus (h : Twin clock s₀ t₀ s t) {b c : Bus} (hb : b = c) : Twin clock s₀ t₀ { s with bus := b } { t with bus := c } :=
  { h with bus := hb }

theorem Twin.raise (h : Twin clock s₀ t₀ s t) (e : FaultRecord) : Twin clock s₀ t₀ (s.raise e) (t.raise e) := by
  unfold State.raise
  rw [h.fault]
  split
  · exact { h with fault := rfl }
  · exact h

theorem Twin.called (h : Twin clock s₀ t₀ s t) (cs : List Call) : Twin clock s₀ t₀ (s.called cs) (t.called cs) := by
  obtain ⟨ds, hs, ht⟩ := h.calls
  exact { h with
    calls := ⟨ds ++ cs, by rw [State.called_calls, hs, List.append_assoc], by rw [State.called_calls, ht, List.append_assoc]⟩ }

theorem Twin.reply (h : Twin clock s₀ t₀ s t) {r r' : HostReply} (hr : r = r') : Twin clock s₀ t₀ (s.reply r) (t.reply r') := by
  subst hr
  obtain ⟨rs, hs, ht⟩ := h.replies
  exact { h with
    replies := ⟨rs ++ [r], by rw [State.reply_replies, hs, List.append_assoc],
      by rw [State.reply_replies, ht, List.append_assoc]⟩ }

theorem Twin.audioPlayFrom (h : Twin clock s₀ t₀ s t) (l : Int) : Twin clock s₀ t₀ (s.audioPlayFrom l) (t.audioPlayFrom l) :=
  { h.called [.audioPlayFrom l] with audio := by rw [State.audioPlayFrom_audio, State.audioPlayFrom_audio, h.audio] }

theorem Twin.audioPause (h : Twin clock s₀ t₀ s t) : Twin clock s₀ t₀ s.audioPause t.audioPause :=
  { h.called [.audioPause] with audio := by rw [State.audioPause_audio, State.audioPause_audio, h.audio] }

theorem Twin.audioStop (h : Twin clock s₀ t₀ s t) : Twin clock s₀ t₀ s.audioStop t.audioStop :=
  { h.called [.audioStop] with audio := by rw [State.audioStop_audio, State.audioStop_audio, h.audio] }

theorem Twin.audioSetEnd (h : Twin clock s₀ t₀ s t) (l : Int) (m : PlayMode) :
    Twin clock s₀ t₀ (s.audioSetEnd l m) (t.audioSetEnd l m) :=
  { h.called [.audioSetEndLBA l, .audioSetPlayMode m] with
    audio := by rw [State.audioSetEnd_audio, State.audioSetEnd_audio, h.audio] }

theorem Twin.enterGoodStatus (h : Twin clock s₀ t₀ s t) : Twin clock s₀ t₀ s.enterGoodStatus t.enterGoodStatus :=
  h.withBus (congrArg Bus.enterGoodStatus h.bus)

/-- Enqueueing bytes and then an operation that keeps two machines alike. -/
theorem Twin.enqueueThen (h : Twin clock s₀ t₀ s t) (bs : List Byte) {k l : State → State}
    (hk : ∀ u v, Twin clock s₀ t₀ u v → Twin clock s₀ t₀ (k u) (l v)) : Twin clock s₀ t₀ (s.enqueueThen bs k) (t.enqueueThen bs l) := by
  unfold State.enqueueThen
  rw [h.bus]
  dsimp only
  split_ifs
  · exact (h.withBus rfl).raise _
  · exact hk _ _ (h.withBus rfl)

theorem Twin.answer (h : Twin clock s₀ t₀ s t) (bs : List Byte) : Twin clock s₀ t₀ (s.answer bs) (t.answer bs) := by
  unfold State.answer
  rw [h.bus]
  exact (h.withBus rfl).enqueueThen bs fun u v huv => huv.withBus (by rw [huv.bus])

/-! ## The instructions -/

theorem Twin.startAudio (h : Twin clock s₀ t₀ s t) (control : Byte) (start : Int) :
    Twin clock s₀ t₀ (s.startAudio control start) (t.startAudio control start) := by
  have hplay := (h.withBus (b := { s.bus with audioStartLBA := start }) (c := { t.bus with audioStartLBA := start })
    (by rw [h.bus])).audioPlayFrom start
  unfold State.startAudio
  dsimp only
  split_ifs
  · exact hplay.audioPause.enterGoodStatus
  · exact hplay.enterGoodStatus

theorem Twin.endAudioMode (h : Twin clock s₀ t₀ s t) (control : Byte) :
    Twin clock s₀ t₀ (s.endAudioMode control) (t.endAudioMode control) := by
  unfold State.endAudioMode
  split_ifs
  · exact h.audioStop
  · split
    · rw [h.bus]
      exact (h.audioPlayFrom _).audioSetEnd _ _
    · exact h

theorem twin_audioStartPos (h : Twin clock s₀ t₀ s t) (control : Byte) (addr : AudioAddr) :
    TwinAnswers clock s₀ t₀ (exec (.audioStartPos control addr) s) (exec (.audioStartPos control addr) t) := by
  have haddr : audioAddress s.disc.toc s.bus.audioStartLBA addr = audioAddress t.disc.toc t.bus.audioStartLBA addr := by
    rw [h.disc, h.bus]
  cases ht : audioAddress t.disc.toc t.bus.audioStartLBA addr with
  | error e =>
    rw [exec_audioStartPos_of_error (haddr.trans ht), exec_audioStartPos_of_error ht]
    exact .next (h.raise e)
  | ok start =>
    rw [exec_audioStartPos_of_ok (haddr.trans ht), exec_audioStartPos_of_ok ht, h.disc]
    exact .next ((h.called _).startAudio control start)

theorem twin_audioEndPos (h : Twin clock s₀ t₀ s t) (control : Byte) (addr : AudioAddr) :
    TwinAnswers clock s₀ t₀ (exec (.audioEndPos control addr) s) (exec (.audioEndPos control addr) t) := by
  have haddr : audioAddress s.disc.toc s.bus.audioEndLBA addr = audioAddress t.disc.toc t.bus.audioEndLBA addr := by
    rw [h.disc, h.bus]
  cases ht : audioAddress t.disc.toc t.bus.audioEndLBA addr with
  | error e =>
    rw [exec_audioEndPos_of_error (haddr.trans ht), exec_audioEndPos_of_error ht]
    exact .next (h.raise e)
  | ok stop =>
    rw [exec_audioEndPos_of_ok (haddr.trans ht), exec_audioEndPos_of_ok ht, h.disc, h.bus]
    exact .next (((h.called _).withBus rfl).endAudioMode control).enterGoodStatus

theorem twin_readSubcodeQ (h : Twin clock s₀ t₀ s t) : TwinAnswers clock s₀ t₀ (exec .readSubcodeQ s) (exec .readSubcodeQ t) := by
  rw [exec_readSubcodeQ, exec_readSubcodeQ, h.disc, h.audio, h.bus]
  exact .next ((h.called _).answer _)

theorem twin_readToc (h : Twin clock s₀ t₀ s t) (req : TocRequest) :
    TwinAnswers clock s₀ t₀ (exec (.readToc req) s) (exec (.readToc req) t) := by
  unfold exec execReadToc
  rw [h.disc]
  have hcalled := h.called (tocCalls t.disc.toc req)
  dsimp only
  split
  · exact .next ((hcalled.withBus (by rw [hcalled.bus])).raise _)
  · exact .next (hcalled.answer _)
  · exact .next hcalled.enterGoodStatus

/-- A job reads the checks' operands and the disc alike; its bytes go to the destination, which need not agree. -/
theorem twin_synth (h : Twin clock s₀ t₀ s t) (variant : Nat) (job : SynthJob) (c : MainChannel)
    (main main' : Option (List Byte) → List Byte → List Byte) :
    Twin clock s₀ t₀ (s.synth variant job c main) (t.synth variant job c main') := by
  unfold State.synth
  rw [h.faulted, h.destLen, h.disc]
  have hcalled := h.called (c.calls job.lba)
  split_ifs
  · exact h
  · split
    · exact h.raise _
    · dsimp only
      split
      · exact hcalled.raise _
      · exact { hcalled with }

theorem twin_exec (h : Twin True s₀ t₀ s t) (i : Instr) : TwinAnswers True s₀ t₀ (exec i s) (exec i t) := by
  cases i with
  | testUnitReady | unrecognized op => exact .next h.enterGoodStatus
  | pause => exact .next h.audioPause.enterGoodStatus
  | read lba count => exact .next (h.withBus (by rw [h.bus, h.now trivial, h.params])).audioStop
  | audioStartPos control addr => exact twin_audioStartPos h control addr
  | audioEndPos control addr => exact twin_audioEndPos h control addr
  | readSubcodeQ => exact twin_readSubcodeQ h
  | readToc req => exact twin_readToc h req
  | synthMode1_2048 job | synthGap_2048 job | synthRaw_2352 job | synthGap_2352 job =>
    exact .next (twin_synth h _ job _ _ _)

/-! ## The engine -/

theorem Twin.afterCommand (h : Twin clock s₀ t₀ s t) (clears : Bool) :
    Twin clock s₀ t₀ (s.afterCommand clears) (t.afterCommand clears) := by
  unfold State.afterCommand
  rw [h.faulted, h.bus]
  split_ifs
  · exact h
  · exact h.withBus rfl
  · exact h.withBus rfl

theorem twin_commandDecode (h : Twin True s₀ t₀ s t) : TwinAnswers True s₀ t₀ (commandDecode s) (commandDecode t) := by
  unfold commandDecode
  rw [h.params, h.bus]
  split_ifs
  · split
    · exact .next { h with bus := rfl, params := rfl }
    · rename_i i _
      have hexec := twin_exec h i
      generalize exec i s = o at hexec
      generalize exec i t = p at hexec
      cases hexec with
      | next huv => exact .next (huv.afterCommand _)
  · have hdue : s.queuedDue = t.queuedDue := by simp only [State.queuedDue, h.params, h.bus, h.now trivial]
    exact .next (h.withBus (by rw [hdue, h.bus]))

theorem twin_commandHandler (h : Twin True s₀ t₀ s t) : TwinAnswers True s₀ t₀ (commandHandler s) (commandHandler t) := by
  unfold commandHandler
  rw [h.bus]
  split_ifs
  · exact .next (h.raise _)
  · exact twin_commandDecode (h.withBus rfl)
  · exact twin_commandDecode h

theorem twin_busPass (h : Twin True s₀ t₀ s t) : TwinAnswers True s₀ t₀ (busPass s) (busPass t) := by
  unfold busPass
  rw [h.bus]
  split_ifs
  · exact .next (h.withBus rfl)
  · exact .next (h.withBus rfl)
  · cases t.bus.phase with
    | busFree => exact .next h
    | command => exact twin_commandHandler h
    | dataIn | dataOut | messageIn | messageOut | status => exact .next (h.withBus rfl)

theorem twin_settle (n : Nat) : ∀ {s t : State}, Twin True s₀ t₀ s t → TwinAnswers True s₀ t₀ (settle n s) (settle n t) := by
  induction n with
  | zero =>
    intro s t h
    rw [settle, settle, h.bus]
    exact .next (h.raise _)
  | succ n ih =>
    intro s t h
    rw [settle, settle]
    have hpass := twin_busPass h
    generalize busPass s = o at hpass
    generalize busPass t = p at hpass
    cases hpass with
    | next huv =>
      rw [andThen_next, andThen_next, huv.faulted, h.bus, huv.bus]
      split_ifs
      · exact .next huv
      · exact .next huv
      · exact ih huv

/-- The three outcomes of a sector load as one equation (40_bus_fsm.md R141). -/
theorem sectorLoad_eq (s : State) : s.sectorLoad =
    if s.loadDue then
      if (s.disc.readBlock s.bus.currentReadingSector 2048).length = 2048 then
        { s.called [.blockRead s.bus.currentReadingSector 2048] with
          bus := { s.bus with dataIn := s.disc.readBlock s.bus.currentReadingSector 2048 }.afterLoad
            (sectorsAfterLoad s.bus.sectorsLeftToRead s.freeCount)
          freeCount := drawsAfterLoad s.bus.sectorsLeftToRead s.freeCount }
      else (s.called [.blockRead s.bus.currentReadingSector 2048]).raise (.sectorSize s.bus.currentReadingSector)
    else s := by
  obtain ⟨hdue, h⟩ | ⟨hdue, hlen, h⟩ | ⟨hdue, hlen, h⟩ := s.sectorLoad_cases
  · rw [h, hdue, if_neg Bool.false_ne_true]
  · rw [h, if_pos hdue, if_neg hlen]
  · rw [h, if_pos hdue, if_pos hlen]

/-- A load that finds the counter positive draws no free value (42_codecs.md R225). -/
theorem Twin.sectorLoad (h : Twin True s₀ t₀ s t) (hpos : s.bus.dataReadInProgress = true → 0 < s.bus.sectorsLeftToRead) :
    Twin True s₀ t₀ s.sectorLoad t.sectorLoad := by
  have hdue : s.loadDue = t.loadDue := by simp only [State.loadDue, h.bus, h.now trivial]
  have hcalled := h.called [.blockRead t.bus.currentReadingSector 2048]
  rw [h.bus] at hpos
  rw [sectorLoad_eq s, sectorLoad_eq t, hdue, h.disc, h.bus]
  split_ifs with hload hlen
  · obtain ⟨hread, -, -⟩ := (State.loadDue_iff t).1 hload
    obtain ⟨left, hleft⟩ := Nat.exists_eq_succ_of_ne_zero (hpos hread).ne'
    exact { hcalled with bus := by rw [hleft]; rfl }
  · exact hcalled.raise _
  · exact h

theorem Twin.deviceReset (h : Twin clock s₀ t₀ s t) : Twin clock s₀ t₀ s.deviceReset t.deviceReset := by
  unfold State.deviceReset
  rw [h.faulted, h.bus, h.params]
  split_ifs
  · exact h
  · exact Twin.audioStop { h with bus := rfl, params := rfl }

/-- An Advance sets the clock of both machines, so they need not agree on it before. -/
theorem twin_advance (h : Twin False s₀ t₀ s t) (now : Nat)
    (hpos : s.bus.dataReadInProgress = true → 0 < s.bus.sectorsLeftToRead) :
    TwinAnswers False s₀ t₀ (s.advance now) (t.advance now) := by
  have hnow : Twin True s₀ t₀ { s with now := now } { t with now := now } := { h with now := fun _ => rfl }
  have hload := hnow.sectorLoad hpos
  have hrst : s.bus.sig.rst = t.bus.sig.rst := by rw [h.bus]
  unfold State.advance
  rw [h.faulted]
  dsimp only
  rw [hrst, hload.faulted]
  split_ifs
  · exact .next h
  · exact .next hnow.deviceReset.anyClock
  · exact .next hload.anyClock
  · exact (twin_settle Config.settleBound hload).anyClock

/-! ## The host's operations -/

theorem Twin.load (h : Twin clock s₀ t₀ s t) (image : Bus) : Twin clock s₀ t₀ (s.load image) (t.load image) := by
  unfold State.load
  rw [h.faulted]
  split_ifs
  · exact h
  · exact h.withBus rfl

theorem Twin.synthUnknown (h : Twin clock s₀ t₀ s t) (d : JobDescriptor) :
    Twin clock s₀ t₀ (s.synthUnknown d) (t.synthUnknown d) := by
  unfold State.synthUnknown
  rw [h.faulted, h.destLen]
  split_ifs
  · exact h
  · split
    · exact h.raise _
    · exact h

theorem twin_synthOp (h : Twin clock s₀ t₀ s t) (d : JobDescriptor) :
    TwinAnswers clock s₀ t₀ (synthOp d s) (synthOp d t) := by
  by_cases hv : d.variant < 4
  · simp only [synthOp, decodeJob_of_lt hv, exec_synthInstr hv]
    exact .next (twin_synth h _ _ _ _ _)
  · simp only [synthOp, decodeJob_of_le (not_lt.1 hv)]
    exact .next (h.synthUnknown d)

theorem twin_perform (h : Twin False s₀ t₀ s t) (op : HostOp)
    (hpos : s.bus.dataReadInProgress = true → 0 < s.bus.sectorsLeftToRead) :
    TwinAnswers False s₀ t₀ (perform op s) (perform op t) := by
  cases op with
  | advance now => exact twin_advance h now hpos
  | synth d => exact twin_synthOp h d
  | writeSignal l v => exact .next (h.withBus (by rw [h.bus]))
  | writeData v => exact .next (h.withBus (by rw [h.bus]))
  | ackInterrupt => exact .next (h.withBus (by rw [h.bus]))
  | reset => exact .next h.deviceReset
  | readSignals => exact .next (h.reply (by rw [h.bus]))
  | readData => exact .next (h.reply (by rw [h.bus]))
  | readFault => exact .next (h.reply (by rw [h.fault]))
  | save => exact .next (h.reply (by rw [h.bus]))
  | load image => exact .next (h.load image)
  | provideDest bytes => exact .next { h with destLen := rfl }
  | audioMoves mode sector => exact .next { h with audio := by rw [State.audioMoves, State.audioMoves, h.audio] }

end

/-- Settles O37: the two machines start alike but for their clocks, and each operation keeps them so. -/
theorem runDependsOnPersistedState : Obligations.RunDependsOnPersistedState := by
  unfold Obligations.RunDependsOnPersistedState
  rintro s t s' ⟨hbus, hfault, hparams, haudio, hdisc, hlen, hin⟩ ⟨-, -, -, hpos⟩ hstep
  cases hops : s.inputs with
  | nil =>
    have hidle (u : State) (hu : u.inputs = []) : step u = .next u := by simp [step, nextOperation, hu]
    cases (hidle s hops).symm.trans hstep
    exact ⟨t, [], [], hidle t (hin ▸ hops), ⟨hbus, hfault, hparams, haudio, hdisc, hlen, hin⟩, by simp⟩
  | cons op rest =>
    have hstart : Twin False s t { s with inputs := rest } { t with inputs := rest } :=
      ⟨hbus, hfault, hparams, haudio, hdisc, hlen, rfl, False.elim, ⟨[], by simp⟩, ⟨[], by simp⟩⟩
    have hperform := twin_perform hstart op hpos
    rw [step_of_inputs hops] at hstep
    rw [step_of_inputs (hin ▸ hops)]
    rw [hstep] at hperform
    generalize perform op { t with inputs := rest } = p at hperform ⊢
    cases hperform with
    | @next _ t' h =>
      obtain ⟨calls, hcalls, hcalls'⟩ := h.calls
      obtain ⟨replies, hreplies, hreplies'⟩ := h.replies
      exact ⟨t', calls, replies, rfl, ⟨h.bus, h.fault, h.params, h.audio, h.disc, h.destLen, h.inputs⟩, hcalls, hcalls',
        hreplies, hreplies'⟩

end Sys2Proof.Proofs.Twins
end

section
/-! PROOFS. Runs of the bus, one Advance at a time: a step runs the decoded command (40_bus_fsm.md R136), the handshake of
one byte (R148), selection and attention (R130, R132; 70_reset_and_hazards.md R346), the reset (R341, R345), a sector load
in any phase (R347) and a saved image (40_bus_fsm.md R147). -/

namespace Sys2Proof.Proofs.BusRuns
open Machine Claims
open BusFsm
open Encoding (setPhase_eq_inPhase)
open Exceptions (load_of_fault)
open ResetAndHazards (deviceReset_of_no_fault)

/-! ## Settling in few passes (40_bus_fsm.md R131) -/

section
variable {s t : State} (n : Nat)

theorem settle_of_idle (h : busPass s = .next s) : settle (n + 1) s = .next s :=
  settle_of_stops n h (.inl fun hchanged => hchanged.elim (absurd rfl) (absurd rfl))

/-- A pass after which nothing moves is the last but one, or the last. -/
theorem settle_then_idle (hpass : busPass s = .next t) (hf : t.fault = none) (hidle : busPass t = .next t) :
    settle (n + 2) s = .next t := by
  by_cases hchanged : changed s t
  · rw [settle_of_goes_on (n + 1) hpass hchanged hf, settle_of_idle n hidle]
  · exact settle_of_stops (n + 1) hpass (.inl hchanged)

end

/-! ## Passes that change nothing (40_bus_fsm.md R132, R135) -/

section
variable {s : State}

/-- With REQ and ACK different the handlers wait, but for the two stubs. -/
theorem busPass_of_ne (hsel : ¬ selecting s.bus) (hne : s.bus.sig.req ≠ s.bus.sig.ack) (hout : s.bus.phase ≠ .dataOut)
    (hmsg : s.bus.phase ≠ .messageOut) : busPass s = .next s := by
  have hquiet : ¬ (s.bus.sig.atn = true ∧ bothLow s.bus) := fun ⟨_, hreq, hack⟩ => hne (hreq.trans hack.symm)
  rw [busPass_of_quiet hsel hquiet]
  cases hp : s.bus.phase with
  | busFree => simp only [phaseHandler, hp]
  | command =>
    simp only [phaseHandler, hp]
    rw [commandHandler_of_not_handshake (handshake_of_ne hne), commandDecode_of_not_idle (handshakeIdle_of_ne hne)]
  | dataIn => simp only [phaseHandler, hp, dataInHandler_of_ne hne]
  | dataOut => exact absurd hp hout
  | messageOut => exact absurd hp hmsg
  | messageIn =>
    simp only [phaseHandler, hp]
    rw [messageInHandler_of_not_handshake (handshake_of_ne hne), handshakeIdle_of_ne hne]
    rfl
  | status =>
    simp only [phaseHandler, hp]
    rw [statusHandler_of_not_handshake (handshake_of_ne hne), handshakeIdle_of_ne hne]
    rfl

theorem busPass_of_busFree (hp : s.bus.phase = .busFree) (hsel : ¬ selecting s.bus) (hatn : s.bus.sig.atn = false) :
    busPass s = .next s := by
  rw [busPass_of_quiet hsel (by simp [hatn])]
  simp only [phaseHandler, hp]

theorem busPass_of_selected (hp : s.bus.phase = .command) (hsel : selecting s.bus) : busPass s = .next s := by
  rw [busPass_of_selecting hsel, ← hp, Bus.setPhase_self]

end

/-! ## One Advance (40_bus_fsm.md R130) -/

section
variable {s : State} {now : Nat} {rest : List HostOp}

@[simp] theorem advanced_bus (b : Bus) : (advanced s now rest b).bus = b := rfl

/-- An Advance that nothing takes first is the settle loop on the device as it is. -/
theorem step_of_advances (h : advances s now rest) : step s = settle 64 (advanced s now rest s.bus) := by
  obtain ⟨hin, hf, hrst, hdue⟩ := h
  obtain ⟨hsame, -⟩ := sectorLoadQueuesOneSector (advanced s now rest s.bus)
  have hload : (advanced s now rest s.bus).sectorLoad = advanced s now rest s.bus := hsame hdue
  obtain ⟨-, -, -, hsettle⟩ := advanceOrder s now rest hin
  rw [hsettle hf hrst (by rw [hload]; exact hf), hload]

/-- The passes of an Advance write the device only: one pass, and then one that changes nothing. -/
theorem step_of_pass (h : advances s now rest) {b : Bus}
    (hpass : busPass (advanced s now rest s.bus) = .next (advanced s now rest b))
    (hidle : busPass (advanced s now rest b) = .next (advanced s now rest b)) :
    step s = .next (advanced s now rest b) := by
  obtain ⟨-, hf, -⟩ := id h
  rw [step_of_advances h]
  exact settle_then_idle 62 hpass hf hidle

theorem step_of_idle (h : advances s now rest)
    (hidle : busPass (advanced s now rest s.bus) = .next (advanced s now rest s.bus)) :
    step s = .next (advanced s now rest s.bus) := step_of_pass h hidle hidle

end

/-! ## The halves of a byte's handshake (40_bus_fsm.md R148) -/

section
variable {s : State} {now : Nat} {rest : List HostOp} (h : advances s now rest) (hsel : ¬ selecting s.bus)
include h hsel

/-- One pass of the handler, and REQ and ACK are different after it. -/
theorem step_of_handler (hatn : ¬ (s.bus.sig.atn = true ∧ bothLow s.bus)) {b : Bus}
    (hhandler : phaseHandler (advanced s now rest s.bus) = .next (advanced s now rest b)) (hsel' : ¬ selecting b)
    (hne : b.sig.req ≠ b.sig.ack) (hout : b.phase ≠ .dataOut) (hmsg : b.phase ≠ .messageOut) :
    step s = .next (advanced s now rest b) :=
  step_of_pass h ((busPass_of_quiet (s := advanced s now rest s.bus) hsel hatn).trans hhandler)
    (busPass_of_ne (s := advanced s now rest b) hsel' hne hout hmsg)

/-- The acknowledged half: the byte is latched or retired and REQ falls. -/
theorem step_of_bothHigh (hhigh : bothHigh s.bus) {b : Bus}
    (hhandler : phaseHandler (advanced s now rest s.bus) = .next (advanced s now rest b))
    (hsig : b.sig = { s.bus.sig with req := false }) (hphase : b.phase = s.bus.phase) (hout : s.bus.phase ≠ .dataOut)
    (hmsg : s.bus.phase ≠ .messageOut) : step s = .next (advanced s now rest b) := by
  obtain ⟨hreq, hack⟩ := hhigh
  refine step_of_handler h hsel (fun ⟨_, hlow, _⟩ => absurd (hreq.symm.trans hlow) (by decide)) hhandler ?_ ?_
    (hphase ▸ hout) (hphase ▸ hmsg)
  · rwa [selecting, hsig]
  · rw [hsig, hack]
    exact Bool.false_ne_true

/-- The released half: after it the device asks for a handshake with REQ. -/
theorem step_of_bothLow (hlow : bothLow s.bus) (hatn : s.bus.sig.atn = false) {b : Bus}
    (hhandler : phaseHandler (advanced s now rest s.bus) = .next (advanced s now rest b)) (hsel' : ¬ selecting b)
    (hreq : b.sig.req = true) (hack : b.sig.ack = s.bus.sig.ack) (hout : b.phase ≠ .dataOut) (hmsg : b.phase ≠ .messageOut) :
    step s = .next (advanced s now rest b) := by
  refine step_of_handler h hsel (by simp [hatn]) hhandler hsel' ?_ hout hmsg
  rw [hreq, hack, hlow.2]
  exact Bool.false_ne_true.symm

end

section
variable {s : State} {now : Nat} {rest : List HostOp} {b : Bus}

theorem phaseHandler_command (hp : b.phase = .command) :
    phaseHandler (advanced s now rest b) = commandHandler (advanced s now rest b) := by
  simp only [phaseHandler, advanced_bus, hp]

theorem phaseHandler_dataIn (hp : b.phase = .dataIn) :
    phaseHandler (advanced s now rest b) = .next (advanced s now rest b.dataInHandler) := by
  simp only [phaseHandler, advanced_bus, hp]
  rfl

theorem phaseHandler_status (hp : b.phase = .status) :
    phaseHandler (advanced s now rest b) = .next (advanced s now rest b.statusHandler) := by
  simp only [phaseHandler, advanced_bus, hp]
  rfl

theorem phaseHandler_messageIn (hp : b.phase = .messageIn) :
    phaseHandler (advanced s now rest b) = .next (advanced s now rest b.messageInHandler) := by
  simp only [phaseHandler, advanced_bus, hp]
  rfl

theorem phaseHandler_messageOut (hp : b.phase = .messageOut) :
    phaseHandler (advanced s now rest b) = .next (advanced s now rest (b.setPhase .busFree)) := by
  simp only [phaseHandler, advanced_bus, hp]
  rfl

end

/-- A device that holds BSY is not selected. -/
theorem not_selecting_of_bsy {b : Bus} (h : b.sig.bsy = true) : ¬ selecting b := fun ⟨_, hbsy⟩ => by simp [h] at hbsy

/-- Settles O31, by the half of the handshake and the phase: the handler's equation (O19 to O21) is the first pass, and the
second changes nothing. -/
theorem byteHandshakes : Obligations.ByteHandshakes := by
  unfold Obligations.ByteHandshakes
  intro s now rest h hsel
  dsimp only
  obtain ⟨-, hstatusOut, hmessageOut, -⟩ := statusAndMessageHandOff s.bus
  refine ⟨fun hhigh => ⟨fun hp hlen => ?latch, fun hp => ?retire, fun hp => ?statusAck, fun hp => ?messageAck⟩,
    fun hlow hatn => ⟨fun hp op tail hbuf hshort => ?ask, fun hp byte queue hq => ?present, fun hp hq hdone => ?drainLast,
      fun hp hq hdone => ?drain, fun hp hdone => ?toMessageIn, fun hp hdone hnosel => ?toBusFree⟩⟩
  case latch =>
    refine step_of_bothHigh h hsel hhigh ?_ rfl rfl (by simp [hp]) (by simp [hp])
    exact (phaseHandler_command hp).trans (commandHandler_of_latch hhigh hlen)
  case retire =>
    refine step_of_bothHigh h hsel hhigh ?_ rfl rfl (by simp [hp]) (by simp [hp])
    rw [phaseHandler_dataIn hp, dataInHandler_of_bothHigh hhigh]
    rfl
  case statusAck =>
    refine step_of_bothHigh h hsel hhigh ?_ rfl rfl (by simp [hp]) (by simp [hp])
    rw [phaseHandler_status hp, statusHandler_of_bothHigh hhigh]
    rfl
  case messageAck =>
    refine step_of_bothHigh h hsel hhigh ?_ rfl rfl (by simp [hp]) (by simp [hp])
    rw [phaseHandler_messageIn hp, messageInHandler_of_bothHigh hhigh]
    rfl
  case ask =>
    have hdec := Decoding.decodeCdb_of_short hshort
    rw [← hbuf] at hdec
    refine step_of_bothLow h hsel hlow hatn ?_ hsel rfl rfl (by simp [hp]) (by simp [hp])
    rw [phaseHandler_command hp, commandHandler_of_not_handshake (s := advanced s now rest s.bus) (handshake_of_bothLow hlow)]
    exact commandDecode_of_error (s := advanced s now rest s.bus) ((handshakeIdle_iff _).2 hlow)
      (by rw [advanced_bus, hbuf]; exact List.cons_ne_nil _ _) hdec
  case present =>
    refine step_of_bothLow h hsel hlow hatn ?_ hsel rfl rfl (by simp [hp]) (by simp [hp])
    rw [phaseHandler_dataIn hp, dataInHandler_of_cons hlow hq]
    rfl
  case drainLast =>
    refine step_of_bothLow h hsel hlow hatn ?_ (not_selecting_of_bsy ?_) ?_ ?_ (by simp [inStatus]) (by simp [inStatus])
    · rw [phaseHandler_dataIn hp, dataInHandler_of_nil hlow hq,
        drain_of_done hdone]
    all_goals simp [inStatus, hp, lines]
  case drain =>
    refine step_of_bothLow h hsel hlow hatn ?_ (not_selecting_of_bsy ?_) ?_ ?_ (by simp [inStatus]) (by simp [inStatus])
    · rw [phaseHandler_dataIn hp, dataInHandler_of_nil hlow hq,
        drain_of_not_done hdone]
    all_goals simp [inStatus, hp, lines]
  case toMessageIn =>
    refine step_of_bothLow h hsel hlow hatn ?_ (not_selecting_of_bsy rfl) rfl rfl (by simp) (by simp)
    rw [phaseHandler_status hp, hstatusOut hlow hdone, inPhase,
      if_neg (by simp [hp])]
  case toBusFree =>
    refine step_of_pass h ?_ (busPass_of_busFree rfl (by simp [lines, advanced, hnosel]) hatn)
    refine (busPass_of_quiet (s := advanced s now rest s.bus) hsel (by simp [hatn, advanced])).trans ?_
    rw [phaseHandler_messageIn hp, hmessageOut hlow hdone, inPhase,
      if_neg (by simp [hp])]

/-! ## A step runs the decoded command (40_bus_fsm.md R136, 41_scsi_commands.md R170) -/

theorem afterCommand_eq (t : State) (clears : Bool) : t.afterCommand clears =
    if t.fault ≠ none then t
    else if clears then { t with bus := { t.bus with commandBuffer := [] } }
    else { t with bus := { t.bus with sig := { t.bus.sig with req := true } } } := by
  by_cases hf : t.fault = none
  · rw [if_neg (not_not.2 hf)]
    cases clears with
    | true => exact afterCommand_true hf
    | false => exact afterCommand_false hf
  · rw [if_pos hf, afterCommand_of_fault hf]

/-- One pass of the settle loop, and what is left to do after it. -/
theorem settle_succ_eq {s t : State} (n : Nat) (hpass : busPass s = .next t) : settle (n + 1) s =
    if t.fault ≠ none then .next t
    else if t.bus.sig = s.bus.sig ∧ t.bus.phase = s.bus.phase then .next t else settle n t := by
  by_cases hf : t.fault = none
  · rw [if_neg (not_not.2 hf)]
    by_cases hsame : t.bus.sig = s.bus.sig ∧ t.bus.phase = s.bus.phase
    · rw [if_pos hsame]
      exact settle_of_stops n hpass (.inl fun hchanged => hchanged.elim (absurd hsame.1.symm) (absurd hsame.2.symm))
    · rw [if_neg hsame]
      refine settle_of_goes_on n hpass ?_ hf
      by_contra hnot
      obtain ⟨hsig, hphase⟩ := not_or.1 hnot
      exact hsame ⟨(not_not.1 hsig).symm, (not_not.1 hphase).symm⟩
  · rw [if_pos hf]
    exact settle_of_stops n hpass (.inr hf)

section
variable {s : State} {now : Nat} {rest : List HostOp} {i : Instr} {v : State}

/-- The pass of a Command phase that holds a complete CDB. -/
theorem busPass_of_decoded (hp : s.bus.phase = .command) (hsel : ¬ selecting s.bus) (hlow : bothLow s.bus)
    (hatn : s.bus.sig.atn = false) (hdec : decodeCdb s.params.opcodes s.bus.commandBuffer = .ok i)
    (hexec : exec i (advanced s now rest s.bus) = .next v) :
    busPass (advanced s now rest s.bus) = .next (v.afterCommand (clearsCommandBuffer i s.params)) := by
  rw [busPass_of_quiet (s := advanced s now rest s.bus) hsel (fun ⟨hup, _⟩ => by simp [hatn] at hup),
    phaseHandler_command hp, commandHandler_of_not_handshake (s := advanced s now rest s.bus) (handshake_of_bothLow hlow)]
  exact commandDecode_of_ok (s := advanced s now rest s.bus) ((handshakeIdle_iff _).2 hlow) hdec hexec

end

/-- Settles O6: the command is the first pass of the settle loop; a job is its own operation. -/
theorem stepRunsDecodedInstruction : Obligations.StepRunsDecodedInstruction := by
  unfold Obligations.StepRunsDecodedInstruction
  refine ⟨fun s now rest i h hp hsel hlow hatn hdec => ?command, fun p => ⟨rfl, fun _ _ => rfl, fun _ _ => rfl,
    fun _ _ => rfl, rfl, rfl, fun _ => rfl⟩, fun s d rest i hin hdec => ?job⟩
  case command =>
    obtain ⟨v, hexec⟩ := exec_answers i (advanced s now rest s.bus)
    refine ⟨v, v.afterCommand (clearsCommandBuffer i s.params), hexec, afterCommand_eq v _, ?_⟩
    rw [step_of_advances h]
    exact settle_succ_eq 63 (busPass_of_decoded hp hsel hlow hatn hdec hexec)
  case job =>
    rw [step_of_inputs hin]
    show synthOp d { s with inputs := rest } = _
    rw [synthOp, hdec]

/-! ## Selection and attention (40_bus_fsm.md R130, R132; 70_reset_and_hazards.md R346) -/

/-- The device just selected: the Command phase with its entry lines (30_encoding.md R105). -/
def selected (b : Bus) : Bus := { b with phase := .command, sig := lines b.sig true false true false true }

/-- The device after attention found no message: BusFree with its entry lines (40_bus_fsm.md R142). -/
def freed (b : Bus) : Bus := { b with phase := .busFree, sig := lines b.sig false false false false false }

/-- The device at attention: MessageOut with its entry lines. -/
def attended (b : Bus) : Bus := { b with phase := .messageOut, sig := lines b.sig true true true false true }

section
variable {s : State} {now : Nat} {rest : List HostOp} {b : Bus}

theorem setPhase_command (hp : b.phase ≠ .command) : b.setPhase .command = selected b := by
  rw [setPhase_eq_inPhase, inPhase, if_neg hp]
  rfl

theorem setPhase_messageOut (hp : b.phase ≠ .messageOut) : b.setPhase .messageOut = attended b := by
  rw [setPhase_eq_inPhase, inPhase, if_neg hp]
  rfl

theorem busPass_selected (hsel : selecting b) (hp : b.phase ≠ .command) :
    busPass (advanced s now rest b) = .next (advanced s now rest (selected b)) := by
  rw [busPass_of_selecting (s := advanced s now rest b) hsel, advanced_bus, setPhase_command hp]
  rfl

theorem busPass_attended (hsel : ¬ selecting b) (hatn : b.sig.atn = true) (hlow : bothLow b) (hp : b.phase ≠ .messageOut) :
    busPass (advanced s now rest b) = .next (advanced s now rest (attended b)) := by
  rw [busPass_of_attention (s := advanced s now rest b) hsel hatn hlow, advanced_bus, setPhase_messageOut hp]
  rfl

/-- MessageOut is a stub: with REQ up, which attention does not take, it enters BusFree. -/
theorem busPass_freed : busPass (advanced s now rest (attended b)) = .next (advanced s now rest (freed b)) := by
  have hreq : ¬ ((attended b).sig.atn = true ∧ bothLow (attended b)) := fun ⟨_, hlow, _⟩ => Bool.false_ne_true hlow.symm
  rw [busPass_of_quiet (s := advanced s now rest (attended b)) (not_selecting_of_bsy rfl) hreq,
    phaseHandler_messageOut rfl, setPhase_eq_inPhase]
  rfl

/-- The byte on the data lines latched into the command buffer, REQ dropped (40_bus_fsm.md R136). -/
def latched (b : Bus) : Bus :=
  { b with commandBuffer := b.commandBuffer ++ [b.dataBits], sig := { b.sig with req := false } }

/-- After selection with ACK low the device waits for the first CDB byte. -/
theorem busPass_selected_waits (hack : b.sig.ack = false) :
    busPass (advanced s now rest (selected b)) = .next (advanced s now rest (selected b)) := by
  refine busPass_of_ne (s := advanced s now rest (selected b)) (not_selecting_of_bsy rfl) ?_ BusPhase.noConfusion
    BusPhase.noConfusion
  show true ≠ b.sig.ack
  rw [hack]
  decide

/-- The Command handler acts in the pass after selection. -/
theorem busPass_selected_handler :
    busPass (advanced s now rest (selected b)) = commandHandler (advanced s now rest (selected b)) := by
  have hreq : ¬ ((selected b).sig.atn = true ∧ bothLow (selected b)) := fun ⟨_, hlow, _⟩ => Bool.false_ne_true hlow.symm
  rw [busPass_of_quiet (s := advanced s now rest (selected b)) (not_selecting_of_bsy rfl) hreq, phaseHandler_command rfl]

theorem settle_selected (n : Nat) (hf : s.fault = none) (hsel : selecting b) (hp : b.phase ≠ .command) :
    settle (n + 1) (advanced s now rest b) = settle n (advanced s now rest (selected b)) :=
  settle_of_goes_on n (busPass_selected hsel hp) (.inr hp) hf

/-- Two passes take a device at attention from any other phase to BusFree, where attention is found again. -/
theorem settle_attended (n : Nat) (hf : s.fault = none) (hsel : ¬ selecting b) (hatn : b.sig.atn = true)
    (hlow : bothLow b) (hp : b.phase ≠ .messageOut) :
    settle (n + 2) (advanced s now rest b) = settle n (advanced s now rest (freed b)) := by
  rw [settle_of_goes_on (n + 1) (busPass_attended hsel hatn hlow hp) (.inr hp) hf,
    settle_of_goes_on n busPass_freed (.inr BusPhase.noConfusion) hf]

/-- In BusFree with attention held and SEL low the passes go round until none is left (70_reset_and_hazards.md R346). -/
theorem settle_freed (n : Nat) (hf : s.fault = none) (hsel : b.sig.sel = false) (hatn : b.sig.atn = true)
    (hack : b.sig.ack = false) :
    settle (2 * n) (advanced s now rest (freed b)) =
      .next { advanced s now rest (freed b) with fault := some (.noSettle .busFree (freed b).sig) } := by
  have hnosel : ¬ selecting (freed b) := fun ⟨hup, _⟩ => Bool.false_ne_true (hsel.symm.trans hup)
  induction n with
  | zero => exact congrArg Host.Outcome.next (State.raise_of_fault_none (advanced s now rest (freed b)) _ hf)
  | succ n ih =>
    rw [Nat.mul_succ, settle_attended (2 * n) hf hnosel hatn ⟨rfl, hack⟩ BusPhase.noConfusion]
    exact ih

end

/-- Settles O29: two passes reach BusFree, and the other 62 come back to it. -/
theorem atnLivelockFaults : Obligations.AtnLivelockFaults := by
  unfold Obligations.AtnLivelockFaults
  intro s now rest h hsel hatn hlow hp
  obtain ⟨-, hf, -⟩ := id h
  rw [step_of_advances h, settle_attended 62 hf (by simp [hsel]) hatn hlow hp, settle_freed 31 hf hsel hatn hlow.2]
  rfl

/-- Settles O30: selection by its pass and what the Command handler does with ACK held; attention by way of MessageOut and
BusFree, where SEL selects. -/
theorem selectionEntersCommand : Obligations.SelectionEntersCommand := by
  unfold Obligations.SelectionEntersCommand
  intro s now rest h
  dsimp only
  obtain ⟨-, hf, -⟩ := id h
  refine ⟨fun hsel => ⟨fun hp hack => ?enters, fun hp => ?stays, fun hp hack hlen => ?latches, fun hp hack hlen => ?full⟩,
    fun hsel hbsy hatn hlow hp => ?attention⟩
  case enters => exact step_of_pass h (busPass_selected hsel hp) (busPass_selected_waits hack)
  case stays => exact step_of_idle h (busPass_of_selected hp hsel)
  case latches =>
    have hlatch := commandHandler_of_latch (s := advanced s now rest (selected s.bus)) ⟨rfl, hack⟩ hlen
    have hwaits := busPass_of_ne (s := advanced s now rest (latched (selected s.bus))) (not_selecting_of_bsy rfl)
      (fun hreq => Bool.false_ne_true (hreq.trans hack)) BusPhase.noConfusion BusPhase.noConfusion
    rw [step_of_advances h, settle_selected 63 hf hsel hp]
    exact settle_then_idle 61 (busPass_selected_handler.trans hlatch) hf hwaits
  case full =>
    have hfull := commandHandler_of_full (s := advanced s now rest (selected s.bus)) ⟨rfl, hack⟩ hlen.ge
    rw [State.raise_of_fault_none (advanced s now rest (selected s.bus)) _ hf] at hfull
    rw [step_of_advances h, settle_selected 63 hf hsel hp]
    exact settle_of_stops 62 (busPass_selected_handler.trans hfull) (.inr (Option.some_ne_none _))
  case attention =>
    rw [step_of_advances h, settle_attended 62 hf (by simp [hbsy]) hatn hlow hp]
    exact settle_then_idle 60 (busPass_selected ⟨hsel, rfl⟩ BusPhase.noConfusion) hf (busPass_selected_waits hlow.2)

/-! ## Reset, RST and BSY (70_reset_and_hazards.md R341, R345) -/

/-- Settles O28: the Advance is a device reset (R130), whose fields are those of `Bus.afterReset`. -/
theorem rstAdvanceResets : Obligations.RstAdvanceResets := by
  unfold Obligations.RstAdvanceResets
  intro s now rest hin hf hrst
  obtain ⟨-, hreset, -⟩ := advanceOrder s now rest hin
  rw [hreset hf hrst, deviceReset_of_no_fault (s := advanced s now rest s.bus) hf]
  exact ⟨_, rfl, rfl, rfl, rfl, rfl, rfl, rfl, rfl, hf⟩

/-- Settles O32: the reset's fields, and a BusFree pass with BSY high, which SEL does not select. -/
theorem bsyAfterResetBlocksSelection : Obligations.BsyAfterResetBlocksSelection := by
  unfold Obligations.BsyAfterResetBlocksSelection
  refine ⟨fun s rest hin hf => ?reset, fun s now rest h hp hbsy hatn => ?idle⟩
  case reset =>
    refine ⟨_, step_of_inputs hin, ?_⟩
    rw [deviceReset_of_no_fault (s := { s with inputs := rest }) hf]
    exact ⟨rfl, rfl, rfl, rfl⟩
  case idle =>
    exact step_of_idle h (busPass_of_busFree (s := advanced s now rest s.bus) hp (not_selecting_of_bsy hbsy) hatn)

/-! ## A saved image (40_bus_fsm.md R147) -/

/-- Settles O36: the image is the whole device, and a load without a fault writes it. -/
theorem loadOfSaveRestores : Obligations.LoadOfSaveRestores := by
  unfold Obligations.LoadOfSaveRestores
  refine fun s rest hin => ⟨s.bus, step_of_inputs hin, fun u more hu hf => ?_⟩
  have hfaulted : ({ u with inputs := more } : State).faulted = false := (State.faulted_eq_false _).2 hf
  rw [step_of_inputs hu, perform, State.load, if_neg (by simp [hfaulted])]

/-! ## A sector load in any phase (40_bus_fsm.md R141, 70_reset_and_hazards.md R347) -/

/-- Settles O26, by the case of the load that has its bytes: the counter is a drawn value in 0..256. -/
theorem counterAtZeroStaysInRange : Obligations.CounterAtZeroStaysInRange := by
  unfold Obligations.CounterAtZeroStaysInRange
  intro s hzero hdue
  dsimp only
  intro hlen
  obtain ⟨hnot, -⟩ | ⟨-, hne, -⟩ | ⟨-, -, hload⟩ := State.sectorLoad_cases s
  case inl => exact absurd ((State.loadDue_iff s).2 hdue) (by simp [hnot])
  case inr.inl => exact absurd hlen hne
  case inr.inr =>
    refine ⟨sectorsAfterLoad s.bus.sectorsLeftToRead s.freeCount, Invariants.sectorsAfterLoad_le (by omega), ?_⟩
    rw [hload, afterLoad_eq_inDataIn, hzero]
    rfl

/-- The device once a sector of a read with `left` more to come is queued (40_bus_fsm.md R141), its lines apart. -/
def loaded (b : Bus) (left : Nat) (bytes : List Byte) (sig : Signals) : Bus :=
  { b with
    phase := .dataIn
    dataIn := bytes
    currentReadingSector := b.currentReadingSector + 1
    sectorsLeftToRead := left
    intDataTransferReady := true
    dataReadInProgress := if left = 0 then false else true
    dataTransferWasDone := if left = 0 then true else b.dataTransferWasDone
    sig := sig }

/-- The state whose next sector load has made its call. -/
def loading (s : State) : State := { s with calls := s.calls ++ [.blockRead s.bus.currentReadingSector 2048] }

section
variable {s : State} {now : Nat} {rest : List HostOp} {b : Bus} {byte : Byte} {queue : List Byte}

theorem step_of_due (hin : s.inputs = .advance now :: rest) (hf : s.fault = none) (hrst : s.bus.sig.rst = false)
    (hdue : due s.bus now) {left : Nat} (hleft : s.bus.sectorsLeftToRead = left + 1)
    (hlen : (s.disc.readBlock s.bus.currentReadingSector 2048).length = 2048) :
    step s = settle 64 (advanced (loading s) now rest
      (loaded s.bus left (s.disc.readBlock s.bus.currentReadingSector 2048)
        (if s.bus.phase = .dataIn then s.bus.sig else lines s.bus.sig true false false true false))) := by
  obtain ⟨hread, -, -⟩ := id hdue
  obtain ⟨-, -, hsectorLoad⟩ := sectorLoadQueuesOneSector (advanced s now rest s.bus)
  have hload := hsectorLoad left hleft hdue hlen
  obtain ⟨-, -, -, hsettle⟩ := advanceOrder s now rest hin
  rw [hsettle hf hrst (by rw [hload]; exact hf), hload]
  simp only [advanced_bus, hread]
  rfl

/-- DataIn with REQ and ACK low: the next byte is presented, and the device waits for its acknowledgement. -/
theorem settle_presents (n : Nat) (hf : s.fault = none) (hp : b.phase = .dataIn) (hsel : ¬ selecting b)
    (hlow : bothLow b) (hatn : b.sig.atn = false) (hq : b.dataIn = byte :: queue) :
    settle (n + 2) (advanced s now rest b) = .next (advanced s now rest
      { b with dataBits := byte, dataIn := queue, sig := { b.sig with req := true } }) := by
  refine settle_then_idle n ?pass hf ?idle
  case pass =>
    rw [busPass_of_quiet (s := advanced s now rest b) hsel (fun ⟨hup, _⟩ => Bool.false_ne_true (hatn.symm.trans hup)),
      phaseHandler_dataIn hp, dataInHandler_of_cons hlow hq]
    rfl
  case idle =>
    refine busPass_of_ne (s := advanced s now rest _) hsel ?_ (by simp [hp]) (by simp [hp])
    rw [advanced_bus, hlow.2]
    exact Bool.false_ne_true.symm

/-- DataIn with REQ and ACK high: the acknowledged byte is retired, and the device waits for the release. -/
theorem settle_retires (n : Nat) (hf : s.fault = none) (hp : b.phase = .dataIn) (hsel : ¬ selecting b)
    (hhigh : bothHigh b) :
    settle (n + 2) (advanced s now rest b) =
      .next (advanced s now rest { b with sig := { b.sig with req := false } }) := by
  refine settle_then_idle n ?pass hf ?idle
  case pass =>
    rw [busPass_of_quiet (s := advanced s now rest b) hsel (fun ⟨_, hlow, _⟩ => Bool.false_ne_true (hlow.symm.trans hhigh.1)),
      phaseHandler_dataIn hp, dataInHandler_of_bothHigh hhigh]
    rfl
  case idle =>
    refine busPass_of_ne (s := advanced s now rest _) hsel ?_ (by simp [hp]) (by simp [hp])
    rw [advanced_bus, hhigh.2]
    exact Bool.false_ne_true

end

section
variable {s : State} {now : Nat} {rest : List HostOp}

theorem advances_of_behindQueue (hin : s.inputs = .advance now :: rest) (hf : s.fault = none)
    (hrst : s.bus.sig.rst = false) (h : behindQueue s.bus now) : advances s now rest := by
  obtain ⟨-, -, -, -, -, hq⟩ := h
  exact ⟨hin, hf, hrst, fun ⟨_, _, hempty⟩ => hq hempty⟩

/-- In Command with no byte received and both lines low, a pass can only hand the queued bytes over (log 32). -/
theorem busPass_of_behindQueue (h : behindQueue s.bus s.now) (hsel : ¬ selecting s.bus) (hatn : s.bus.sig.atn = false)
    (hack : s.bus.sig.ack = false) : busPass s = .next s.deliverQueued := by
  obtain ⟨-, -, hp, hreq, hbuf, -⟩ := h
  rw [busPass_of_quiet hsel (fun ⟨hup, _⟩ => Bool.false_ne_true (hatn.symm.trans hup)), ← commandDecode_of_nil hbuf,
    ← commandHandler_of_not_handshake (handshake_of_bothLow ⟨hreq, hack⟩)]
  simp only [phaseHandler, hp]

/-- A READ waiting behind queued bytes waits on where bytes are not delivered first, where the device is being selected,
and where ACK is high. -/
theorem busPass_waits (h : behindQueue s.bus s.now) (hatn : ¬ (s.bus.sig.atn = true ∧ s.bus.sig.ack = false))
    (hwaits : s.params.queuedBytesFirst = false ∨ selecting s.bus ∨ s.bus.sig.ack = true) : busPass s = .next s := by
  obtain ⟨-, -, hp, hreq, -, -⟩ := id h
  by_cases hsel : selecting s.bus
  · exact busPass_of_selected hp hsel
  cases hack : s.bus.sig.ack with
  | true => exact busPass_of_ne hsel (by simp [hreq, hack]) (by simp [hp]) (by simp [hp])
  | false =>
    have hparam : s.params.queuedBytesFirst = false := by simpa [hsel, hack] using hwaits
    rw [busPass_of_behindQueue h hsel (by simpa [hack] using hatn) hack, State.deliverQueued_of_default s hparam]

theorem busPass_delivers (h : behindQueue s.bus s.now) (hfirst : s.params.queuedBytesFirst = true)
    (hsel : ¬ selecting s.bus) (hatn : s.bus.sig.atn = false) (hack : s.bus.sig.ack = false) :
    busPass s = .next { s with
      bus := { s.bus with phase := .dataIn, sig := lines s.bus.sig true false false true false } } := by
  obtain ⟨hread, hpast, hp, hreq, hbuf, hq⟩ := id h
  have hdue : s.queuedDue = true :=
    (State.queuedDue_iff s).2 ⟨hfirst, hread, hpast, hp, (handshakeIdle_iff s.bus).2 ⟨hreq, hack⟩, hbuf, hq⟩
  rw [busPass_of_behindQueue h hsel hatn hack]
  obtain ⟨hnot, -⟩ | ⟨-, hdeliver⟩ := State.deliverQueued_cases s
  · simp [hdue] at hnot
  · rw [hdeliver]
    rfl

/-- A READ decoded with bytes queued: it restarts the read and waits, its lines as they were (log 32). -/
theorem step_of_read_behindQueue (h : advances s now rest) (hp : s.bus.phase = .command) (hsel : ¬ selecting s.bus)
    (hlow : bothLow s.bus) (hatn : s.bus.sig.atn = false) {lba : BitVec 21} {count : Byte}
    (hdec : decodeCdb s.params.opcodes s.bus.commandBuffer = .ok (.read lba count)) :
    step s = .next ({ advanced s now rest s.bus with
      bus := { s.bus.startRead (readLba lba) (readCount count) (now + s.params.readDelayCycles) with
        commandBuffer := [] } }.audioStop) := by
  obtain ⟨-, hf, -⟩ := id h
  rw [step_of_advances h]
  refine settle_of_stops 63 (t := _) ?_ (.inl fun hchanged => hchanged.elim (absurd rfl) (absurd rfl))
  exact (busPass_of_decoded hp hsel hlow hatn hdec rfl).trans (congrArg Host.Outcome.next (afterCommand_true hf))

end

/-- Settles O58: the load and the passes after it, by the phase and the lines; behind queued bytes, a pass that hands over or
waits. -/
theorem sectorLoadPreemptsAnyPhase : Obligations.SectorLoadPreemptsAnyPhase := by
  unfold Obligations.SectorLoadPreemptsAnyPhase
  refine ⟨fun s now rest left byte queue hin hf hrst hdue hleft hbytes hlen => ?load,
    fun s now rest hin hf hrst => ⟨fun lba count hdue hp hsel hlow hatn hdec hq => ?read, fun hq => ?noLoad,
      fun hbehind hatn => ⟨fun hwaits => ?waits, fun byte queue hfirst hsel hack hq => ?delivers⟩⟩⟩
  case load =>
    have hstep := step_of_due hin hf hrst hdue hleft (by rw [hbytes, List.length_cons, hlen])
    rw [hbytes] at hstep
    refine ⟨fun hp hack hatn => ?fresh, fun hp hack => ?held, fun hp hsel hhigh => ?retires,
      fun hp hsel hlow hatn => ?presents⟩
    case fresh =>
      rw [hstep, if_neg hp]
      exact settle_presents 62 hf rfl (not_selecting_of_bsy rfl) ⟨rfl, hack⟩ hatn rfl
    case held =>
      rw [hstep, if_neg hp]
      exact settle_of_idle 63 (busPass_of_ne (s := advanced (loading s) now rest _) (not_selecting_of_bsy rfl)
        (fun hne => Bool.false_ne_true (hne.trans hack)) BusPhase.noConfusion BusPhase.noConfusion)
    case retires =>
      rw [hstep, if_pos hp]
      exact settle_retires 62 hf rfl hsel hhigh
    case presents =>
      rw [hstep, if_pos hp]
      exact settle_presents 62 hf rfl hsel hlow hatn rfl
  case read =>
    refine ⟨_, step_of_read_behindQueue ⟨hin, hf, hrst, hdue⟩ hp hsel hlow hatn hdec, hf, rfl, rfl, rfl, hp, rfl,
      fun later hlater => ⟨rfl, hlater, hp, hlow.1, rfl, hq⟩⟩
  case noLoad =>
    obtain ⟨hsame, -⟩ := sectorLoadQueuesOneSector (advanced s now rest s.bus)
    exact hsame fun ⟨_, _, hempty⟩ => hq hempty
  case waits =>
    exact step_of_idle (advances_of_behindQueue hin hf hrst hbehind)
      (busPass_waits (s := advanced s now rest s.bus) hbehind hatn hwaits)
  case delivers =>
    have hp : s.bus.phase = .command := hbehind.2.2.1
    have hatn' : s.bus.sig.atn = false := by simpa [hack] using hatn
    rw [step_of_advances (advances_of_behindQueue hin hf hrst hbehind),
      settle_of_goes_on 63 (busPass_delivers (s := advanced s now rest s.bus) hbehind hfirst hsel hatn' hack)
        (.inr (by simp [hp])) hf]
    exact settle_presents 61 hf rfl (not_selecting_of_bsy rfl) ⟨rfl, hack⟩ hatn' hq

end Sys2Proof.Proofs.BusRuns
end

section
/-! PROOFS. The statements of 42_codecs.md settled here: the EDC as a bit-serial register (R215, R216), the GF(2^8) tables
(R217), the Q CRC and the Q bytes (R221, R222), and the subcode interleave (R223, R224). -/

namespace Sys2Proof.Proofs.Registers
open Machine Claims

/-- A shift done for every element of a range is done as often as the range is long. -/
theorem foldl_range_eq_repeat {α : Type} (f : α → α) (n : Nat) (a : α) :
    (List.range n).foldl (fun x _ => f x) a = Nat.repeat f n a := by
  induction n with
  | zero => rfl
  | succ n ih => rw [List.range_succ, List.foldl_append, ih]; rfl

/-! ## The EDC (42_codecs.md R215, R216) -/

theorem edcShift_eq_edcBitSerial (e : Word32) : edcShift e = edcBitSerial e := by
  unfold edcShift edcBitSerial
  split_ifs
  · rfl
  · exact BitVec.xor_zero

theorem edcEntry_eq_repeat (i : Byte) : edcEntry i = Nat.repeat edcBitSerial 8 (i.setWidth 32) := by
  rw [edcEntry, funext edcShift_eq_edcBitSerial, foldl_range_eq_repeat]

theorem edcEntry_zero : edcEntry 0 = 0 := by decide

/-- The register is linear: it shifts two words at once as it shifts each. -/
theorem edcBitSerial_xor (x y : Word32) : edcBitSerial (x ^^^ y) = edcBitSerial x ^^^ edcBitSerial y := by
  have hmask : ∀ p q : Bool, (if (p ^^ q) = true then 0xD8018001#32 else 0#32) =
      (if p = true then 0xD8018001#32 else 0#32) ^^^ (if q = true then 0xD8018001#32 else 0#32) := by decide
  simp only [← edcShift_eq_edcBitSerial, edcShift]
  rw [BitVec.ushiftRight_xor_distrib, BitVec.getLsbD_xor, hmask]
  ac_rfl

theorem repeat_edcBitSerial_xor (n : Nat) (x y : Word32) :
    Nat.repeat edcBitSerial n (x ^^^ y) = Nat.repeat edcBitSerial n x ^^^ Nat.repeat edcBitSerial n y := by
  induction n with
  | zero => rfl
  | succ n ih => rw [Nat.repeat, ih, edcBitSerial_xor]; rfl

/-- Zero bits leave the register without a trace. -/
theorem repeat_edcBitSerial_of_low_zero {n : Nat} {x : Word32} (h : ∀ j < n, x.getLsbD j = false) :
    Nat.repeat edcBitSerial n x = x >>> n := by
  induction n with
  | zero => simp [Nat.repeat]
  | succ n ih =>
    have hbit : (x >>> n).getLsbD 0 = false := by simpa using h n (by omega)
    rw [Nat.repeat, ih fun j hj => h j (by omega), edcBitSerial, hbit, BitVec.shiftRight_add]
    rfl

/-- A step by the table is eight shifts: the low byte picks the entry, the others move down. -/
theorem edcStep_eq_edcByteSerial (e : Word32) (b : Byte) : edcStep e b = edcByteSerial e b := by
  have hsplit : e ^^^ b.setWidth 32 =
      (e ^^^ (e.setWidth 8).setWidth 32) ^^^ (e.setWidth 8 ^^^ b).setWidth 32 := by
    rw [BitVec.setWidth_xor, BitVec.xor_assoc, ← BitVec.xor_assoc ((e.setWidth 8).setWidth 32), BitVec.xor_self,
      BitVec.zero_xor]
  have hlow : ∀ j < 8, (e ^^^ (e.setWidth 8).setWidth 32).getLsbD j = false := fun j hj => by
    simp [hj, show j < 32 by omega]
  have hhigh : (e ^^^ (e.setWidth 8).setWidth 32) >>> 8 = e >>> 8 := by
    refine BitVec.eq_of_getLsbD_eq fun j _ => ?_
    simp
  rw [edcByteSerial, hsplit, repeat_edcBitSerial_xor, repeat_edcBitSerial_of_low_zero hlow, hhigh, ← edcEntry_eq_repeat,
    edcStep]

/-- Fed its own low byte the register moves it out. -/
theorem edcStep_own (e : Word32) (k : Nat) : edcStep (e >>> k) (e.extractLsb' k 8) = e >>> (k + 8) := by
  have hbyte : (e >>> k).setWidth 8 = e.extractLsb' k 8 := by
    refine BitVec.eq_of_getLsbD_eq fun j hj => ?_
    simp [hj]
  rw [edcStep, hbyte, BitVec.xor_self, show (0#8 : Byte) = 0 from rfl, edcEntry_zero, BitVec.shiftRight_add]
  exact BitVec.xor_zero

theorem edc_append_self (bytes : List Byte) :
    edc (bytes ++ [(edc bytes).extractLsb' 0 8, (edc bytes).extractLsb' 8 8, (edc bytes).extractLsb' 16 8,
      (edc bytes).extractLsb' 24 8]) = 0 := by
  generalize he : edc bytes = e
  have hfirst : edcStep e (e.extractLsb' 0 8) = e >>> 8 := edcStep_own e 0
  rw [edc, List.foldl_append, show bytes.foldl edcStep 0#32 = e from he, List.foldl_cons, hfirst, List.foldl_cons,
    edcStep_own e 8, List.foldl_cons, edcStep_own e 16, List.foldl_cons, edcStep_own e 24]
  exact BitVec.ushiftRight_eq_zero le_rfl

/-- Settles O59: by the register's linearity every table step is eight shifts. -/
theorem edcIsTheReflectedCrc : Obligations.EdcIsTheReflectedCrc := by
  unfold Obligations.EdcIsTheReflectedCrc
  refine ⟨fun i => ?entry, fun bytes => ⟨?serial, edc_append_self bytes⟩⟩
  case entry =>
    rw [edcEntry_eq_repeat, edcByteSerial]
    exact congrArg _ BitVec.zero_xor.symm
  case serial => exact congrArg (bytes.foldl · 0) (funext fun e => funext (edcStep_eq_edcByteSerial e))

/-! ## The GF(2^8) tables (42_codecs.md R217) -/

theorem eq_zero_of_xor_gfDouble : ∀ i : Byte, i ^^^ gfDouble i = 0 → i = 0 := by decide +kernel

/-- Multiplication by 1 + α is injective, so the search finds the factor again. -/
theorem gfUnmix_xor_gfDouble (i : Byte) : gfUnmix (i ^^^ gfDouble i) = i := by
  generalize hx : gfUnmix (i ^^^ gfDouble i) = x
  have hspec : x ^^^ gfDouble x = i ^^^ gfDouble i := hx ▸ gfUnmix_spec (i ^^^ gfDouble i)
  have hzero : (x ^^^ i) ^^^ gfDouble (x ^^^ i) = 0 := by
    calc (x ^^^ i) ^^^ gfDouble (x ^^^ i) = (x ^^^ gfDouble x) ^^^ (i ^^^ gfDouble i) := by
          rw [gfDouble_xor]; ac_rfl
      _ = 0 := by rw [hspec, BitVec.xor_self]; rfl
  exact BitVec.xor_eq_zero_iff.1 (eq_zero_of_xor_gfDouble _ hzero)

theorem toNat_gfDouble : ∀ i : Byte,
    (gfDouble i).toNat = if i.toNat < 128 then 2 * i.toNat else (2 * i.toNat) ^^^ 0x11D := by decide +kernel

/-! ## The Q CRC (42_codecs.md R221) -/

theorem crcShift_eq_crcBitSerial (c : Word16) : crcShift c = crcBitSerial c := by
  unfold crcShift crcBitSerial
  split_ifs
  · rfl
  · exact BitVec.xor_zero

theorem crcStep_eq_crcByteSerial (c : Word16) (b : Byte) : crcStep c b = crcByteSerial c b := by
  rw [crcStep, funext crcShift_eq_crcBitSerial, foldl_range_eq_repeat, crcByteSerial]

theorem qCrc_eq (bytes : List Byte) : qCrc bytes = ~~~ (bytes.foldl crcByteSerial 0) := by
  rw [qCrc, funext fun c => funext (crcStep_eq_crcByteSerial c)]
  rfl

/-- Settles O56: the check values by evaluation, the tables and the CRC by their laws. -/
theorem codecCheckValues : Obligations.CodecCheckValues := by
  unfold Obligations.CodecCheckValues
  exact ⟨by decide, by decide, by decide, by decide, by decide, by decide, toNat_gfDouble, gfUnmix_xor_gfDouble,
    gfUnmix_spec, by decide +kernel, by decide +kernel, by decide, by decide, by decide, by decide, qCrc_eq, fun _ => rfl⟩

/-! ## The subcode interleave (42_codecs.md R223, R224) -/

/-- Every 96 bytes are the interleave of their deinterleave: bit 7 − c of byte j comes from byte 12c + j/8. -/
theorem interleave_deinterleave {o : List Byte} (ho : o.length = 96) : interleave (deinterleave o) = o := by
  refine FrameBytes.ext_bits (interleave_length _) ho fun j hj c hc => ?_
  rw [FrameBytes.interleave_bit _ hj hc, FrameBytes.deinterleave_bit o (by omega) (by omega),
    show 8 * ((12 * c + j / 8) % 12) + j % 8 = j by omega, show (12 * c + j / 8) / 12 = c by omega]

/-- Settles O53, by the place of every bit. -/
theorem interleaveIsABitPermutation : Obligations.InterleaveIsABitPermutation := by
  unfold Obligations.InterleaveIsABitPermutation
  exact ⟨fun d _ _ _ hj hc => FrameBytes.interleave_bit d hj hc, fun _ => FrameBytes.deinterleave_interleave,
    fun _ => interleave_deinterleave⟩

end Sys2Proof.Proofs.Registers
end

section
/-! PROOFS. The statements of 43_sector_synth.md settled here: what a job that runs to its end calls and writes, byte by byte
(R252 to R264), the EDC, the reserved bytes and the codewords of the ECC (R254; 42_codecs.md R216 to R220), and that a job
done twice is a job done once (R263). -/

namespace Sys2Proof.Proofs.SynthFrames
open Machine Claims
open BusFsm (faulted_iff)
open FrameBytes Synth

/-! ## The collaborator of a job (43_sector_synth.md R252, R255, R257, R258) -/

section
variable {variant : Nat} {job : SynthJob} {s : State}

theorem calls_of_wanted {c : MainChannel} (hwanted : c.wanted = true) (hzero : c.zero = false) (lba : Int) :
    c.calls lba = [.blockRead lba c.length] := by
  simp [MainChannel.calls, hwanted, hzero]

theorem calls_of_not_wanted {c : MainChannel} (h : c.wanted = false) (lba : Int) : c.calls lba = [] := by
  simp [MainChannel.calls, h]

theorem calls_of_zero {c : MainChannel} (h : c.zero = true) (lba : Int) : c.calls lba = [] := by
  simp [MainChannel.calls, h]

theorem wantsRaw_eq_false (h : ¬ anyMain job) : wantsRaw job = false :=
  Bool.eq_false_iff.2 (mt (wantsRaw_iff job).1 h)

/-- A job of a gap variant makes no call, and writes the destination only. -/
theorem afterJob_of_zero (h : (mainChannel variant job).zero = true) :
    ∃ dest, afterJob variant job s = { s with dest := dest } := by
  refine ⟨s.dest.writeBytes job.off (subcode job (jobMain variant job s)), ?_⟩
  rw [afterJob, calls_of_zero h, State.called, List.append_nil]

end

/-- Settles O43: a job that runs writes its frame and records the calls of its source. -/
theorem synthVariantsComplete : Obligations.SynthVariantsComplete := by
  unfold Obligations.SynthVariantsComplete
  refine fun job s => ⟨fun h => ?mode1, fun h => ?gap2048, fun h => ?raw, fun h => ?gap2352⟩
  case mode1 =>
    exact ⟨_, (mainChannel 0 job).calls job.lba, exec_synthInstr_of_runs (by decide) h,
      fun huser => calls_of_wanted huser rfl job.lba,
      fun hnone => calls_of_not_wanted (Bool.eq_false_iff.2 hnone) job.lba⟩
  case gap2048 =>
    obtain ⟨dest, hdest⟩ := afterJob_of_zero (variant := 1) (job := job) (s := s) rfl
    exact ⟨dest, (exec_synthInstr_of_runs (by decide) h).trans (congrArg _ hdest)⟩
  case raw =>
    exact ⟨_, (mainChannel 2 job).calls job.lba, exec_synthInstr_of_runs (by decide) h,
      fun hany => calls_of_wanted ((wantsRaw_iff job).2 hany) rfl job.lba,
      fun hnone => calls_of_not_wanted (wantsRaw_eq_false hnone) job.lba⟩
  case gap2352 =>
    obtain ⟨dest, hdest⟩ := afterJob_of_zero (variant := 3) (job := job) (s := s) rfl
    exact ⟨dest, (exec_synthInstr_of_runs (by decide) h).trans (congrArg _ hdest)⟩

section
variable {variant : Nat} {job : SynthJob} {n : Nat}

/-- What a variant asks for is what its source is called for. -/
theorem mainChannel_of_asked (h : asked variant job n) : mainChannel variant job = ⟨true, n, false⟩ := by
  obtain ⟨rfl, huser, rfl⟩ | ⟨rfl, hany, rfl⟩ := h
  · rw [mainChannel, if_pos (by decide), show job.has .user2048 = true from huser]
    rfl
  · rw [mainChannel, if_neg (by decide), (wantsRaw_iff job).2 hany]
    rfl

/-- An answer of another length ends the job in F4. -/
theorem fetch_of_length_ne {disc : Disc} {lba : Int} (h : (disc.readBlock lba n).length ≠ n) :
    MainChannel.fetch ⟨true, n, false⟩ disc lba = .error (.sectorSize lba) := by
  simp [MainChannel.fetch, h]

end

/-- Settles O44: the checks pass, the call is made, and the answer's length is the fault. -/
theorem synthBlockSizeFaults : Obligations.SynthBlockSizeFaults := by
  unfold Obligations.SynthBlockSizeFaults
  intro variant job s n hv hf hcheck hasked hlen
  have hfaulted : ¬ s.faulted = true := fun h => (faulted_iff s).1 h hf
  rw [exec_synthInstr hv, State.synth, if_neg hfaulted, synthValidate_of_no_refusal hcheck,
    mainChannel_of_asked hasked, fetch_of_length_ne hlen, calls_of_wanted rfl rfl]
  exact congrArg _ (State.raise_of_fault_none _ _ hf)

/-! ## The main channel of a raw variant (43_sector_synth.md R257, R258) -/

section
variable {variant : Nat} {job : SynthJob} {s : State}

theorem jobMain_2352 (hv : ¬ variant < 2) :
    jobMain variant job s = main2352 (jobAnswer variant job s) (frameBytes s job 0 2448) := by
  rw [jobMain, mainStep, if_neg hv]

theorem jobAnswer_of_not_wanted (h : (mainChannel variant job).wanted = false) : jobAnswer variant job s = none := by
  rw [jobAnswer, answer, h]
  rfl

theorem jobAnswer_of_wanted (h : (mainChannel variant job).wanted = true) : jobAnswer variant job s =
    some (if (mainChannel variant job).zero then List.replicate (mainChannel variant job).length 0x00
      else s.disc.readBlock job.lba (mainChannel variant job).length) := by
  rw [jobAnswer, answer, h]
  rfl

/-- A raw job's answer fills the main channel. -/
theorem frameBytes_afterJob_raw (hv : variant < 4) (hraw : ¬ variant < 2) (h : runs variant job s) {bytes : List Byte}
    (hbytes : jobAnswer variant job s = some bytes) (hlen : bytes.length = 2352) :
    frameBytes (afterJob variant job s) job 0 2352 = bytes := by
  rw [frameBytes_afterJob_main hv h le_rfl, jobMain_2352 hraw, hbytes, ← hlen]
  exact memRead_memWrite (by simp [hlen])

theorem frameBytes_afterJob_raw_of_none (hv : variant < 4) (hraw : ¬ variant < 2) (h : runs variant job s)
    (hnone : jobAnswer variant job s = none) :
    frameBytes (afterJob variant job s) job 0 2352 = frameBytes s job 0 2352 := by
  rw [frameBytes_afterJob_main hv h le_rfl, jobMain_2352 hraw, hnone]
  exact memRead_readBytes s.dest (by decide)

end

/-- Settles O50: by whether the main channel is wanted. -/
theorem rawMainChannelIsVerbatim : Obligations.RawMainChannelIsVerbatim := by
  unfold Obligations.RawMainChannelIsVerbatim
  refine fun job s => ⟨fun h => ⟨_, exec_synthInstr_of_runs (by decide) h, fun hany => ?source, fun hnone => ?kept⟩,
    fun h => ⟨_, exec_synthInstr_of_runs (by decide) h, fun hany => ?zeros, fun hnone => ?gapKept⟩⟩
  case source =>
    obtain ⟨-, -, hlen⟩ := id h
    exact frameBytes_afterJob_raw (by decide) (by decide) h (jobAnswer_of_wanted ((wantsRaw_iff job).2 hany))
      (hlen 2352 (.inr ⟨rfl, hany, rfl⟩))
  case zeros =>
    exact frameBytes_afterJob_raw (by decide) (by decide) h (jobAnswer_of_wanted ((wantsRaw_iff job).2 hany))
      List.length_replicate
  all_goals
    exact frameBytes_afterJob_raw_of_none (by decide) (by decide) h (jobAnswer_of_not_wanted (wantsRaw_eq_false hnone))

/-! ## The pieces of the EDC and ECC step (43_sector_synth.md R254) -/

/-- The frame with its EDC written (42_codecs.md R216). -/
def withEdc (lsbFirst : Bool) (f : List Byte) : List Byte := memWrite f 2064 (edcBytes lsbFirst (edc (memRead f 0 2064)))

/-- The frame with the reserved bytes zeroed. -/
def withReserved (f : List Byte) : List Byte := memWrite f 2068 (List.replicate 8 0x00)

theorem ecm2048_eq (lsbFirst : Bool) {job : SynthJob} (h : ecm job) (f : List Byte) :
    ecm2048 lsbFirst job f = eccQ (eccP (withReserved (withEdc lsbFirst f))) := ecm2048_of_ecm lsbFirst h

section
variable {f : List Byte} (hlen : f.length = 2448) (lsbFirst : Bool)
include hlen

theorem withEdc_agreeOutside : AgreeOutside 2064 2068 (withEdc lsbFirst f) f :=
  (AgreeOutside.refl 2064 2068 f).memWrite le_rfl (by simp) (by omega)

theorem withReserved_agreeOutside : AgreeOutside 2068 2076 (withReserved f) f :=
  (AgreeOutside.refl 2068 2076 f).memWrite le_rfl (by simp) (by omega)

theorem eccP_agreeOutside : AgreeOutside 2076 2248 (eccP f) f :=
  (AgreeOutside.refl 2076 2248 f).eccBlock le_rfl (by omega) (by omega)

theorem eccQ_agreeOutside : AgreeOutside 2248 2352 (eccQ f) f :=
  (AgreeOutside.refl 2248 2352 f).eccBlock le_rfl (by omega) (by omega)

theorem ecc_agreeOutside : AgreeOutside 2076 2352 (eccQ (eccP f)) f := by
  have hp := eccP_agreeOutside hlen
  exact ((eccQ_agreeOutside (hp.length_eq.trans hlen)).mono (by omega) le_rfl).trans (hp.mono le_rfl (by omega))

theorem memRead_withEdc : memRead (withEdc lsbFirst f) 2064 4 = edcBytes lsbFirst (edc (memRead f 0 2064)) := by
  have hread := memRead_memWrite (f := f) (k := 2064) (v := edcBytes lsbFirst (edc (memRead f 0 2064))) (by simp [hlen])
  rwa [edcBytes_length] at hread

theorem memRead_withReserved : memRead (withReserved f) 2068 8 = List.replicate 8 0x00 :=
  memRead_memWrite (f := f) (k := 2068) (v := List.replicate 8 0x00) (by simp [hlen])

end

section
variable {variant : Nat} {job : SynthJob} {s : State}

/-- The frame of a 2048-byte variant before its EDC and ECC step. -/
def beforeEcm (variant : Nat) (job : SynthJob) (s : State) : List Byte :=
  header2048 job (writeUser (jobAnswer variant job s) (frameBytes s job 0 2448))

theorem beforeEcm_length (hv : variant < 2) (h : runs variant job s) : (beforeEcm variant job s).length = 2448 := by
  have hwrite := writeUser_agreeOutside (jobAnswer_length_2048 hv h) (frameBytes_length s job 0 2448)
  have hheader := header2048_agreeOutside (hasTime_of_runs hv h) (hwrite.length_eq.trans (frameBytes_length ..))
  exact hheader.length_eq.trans (hwrite.length_eq.trans (frameBytes_length ..))

theorem jobMain_eq_ecm2048 (hv : variant < 2) :
    jobMain variant job s = ecm2048 s.params.edcLsbFirst job (beforeEcm variant job s) := by
  rw [jobMain_2048 hv, main2048_eq, beforeEcm]

end

/-- What the EDC and ECC step leaves at 2064 and 2068 (43_sector_synth.md R254). -/
theorem memRead_ecm2048 (lsbFirst : Bool) {job : SynthJob} (hecm : ecm job) {f : List Byte} (hlen : f.length = 2448) :
    memRead (ecm2048 lsbFirst job f) 2064 4 = edcBytes lsbFirst (edc (memRead (ecm2048 lsbFirst job f) 0 2064)) ∧
      memRead (ecm2048 lsbFirst job f) 2068 8 = List.replicate 8 0x00 := by
  have hedc := withEdc_agreeOutside hlen lsbFirst
  have hlen' : (withEdc lsbFirst f).length = 2448 := hedc.length_eq.trans hlen
  have hreserved := withReserved_agreeOutside hlen'
  have hecc := ecc_agreeOutside (hreserved.length_eq.trans hlen')
  rw [ecm2048_eq lsbFirst hecm, hecc.memRead_eq (k := 2064) (.inl (by omega)), hecc.memRead_eq (k := 0) (.inl (by omega)),
    hecc.memRead_eq (k := 2068) (.inl (by omega)), memRead_withReserved hlen', hreserved.memRead_eq (k := 2064) (.inl (by omega)),
    hreserved.memRead_eq (k := 0) (.inl (by omega)), hedc.memRead_eq (k := 0) (.inl (by omega)), memRead_withEdc hlen]
  exact ⟨rfl, rfl⟩

/-- Settles O47: the later writes reach neither the EDC and the reserved bytes nor the bytes the EDC is taken over. -/
theorem synthEdcAndReserved : Obligations.SynthEdcAndReserved := by
  unfold Obligations.SynthEdcAndReserved
  intro variant job s hv h hecm
  refine ⟨_, exec_synthInstr_of_runs (by omega) h, ?_⟩
  obtain ⟨hedc, hreserved⟩ := memRead_ecm2048 s.params.edcLsbFirst hecm (beforeEcm_length hv h)
  dsimp only
  rw [frameBytes_afterJob_main (by omega) h (by omega), frameBytes_afterJob_main (by omega) h (by omega),
    frameBytes_afterJob_main (by omega) h (by omega), jobMain_eq_ecm2048 hv]
  exact ⟨hedc, hreserved⟩

/-! ## The bytes a job may write (43_sector_synth.md R264) -/

/-- An index that a requested part may not write lies outside the part's range. -/
theorem outside_of_not_requested {part : Prop} {lo hi k : Nat} (h : ¬ (part ∧ lo ≤ k ∧ k < hi)) (hpart : part) :
    k < lo ∨ hi ≤ k := by
  by_contra hin
  exact h ⟨hpart, by omega⟩

section
variable {job : SynthJob} {f : List Byte} {k : Nat} (hlen : f.length = 2448)
include hlen

theorem subcodeP_getElem? (h : ¬ (chanP job ∧ 2352 ≤ k ∧ k < 2364)) : (subcodeP job f)[k]? = f[k]? := by
  by_cases hwants : chanP job
  · rw [subcodeP, if_pos (show job.has .subchannelP = true from hwants)]
    exact memWrite_out (by simp [hlen]) (by simpa using outside_of_not_requested h hwants)
  · rw [subcodeP, if_neg (show ¬ job.has .subchannelP = true from hwants)]

theorem subcodeQ_getElem? (h : ¬ (chanQ job ∧ 2364 ≤ k ∧ k < 2376)) : (subcodeQ job f)[k]? = f[k]? := by
  by_cases hwants : chanQ job
  · rw [subcodeQ, if_pos (show job.has .subchannelQ = true from hwants)]
    exact memWrite_out (by simp [hlen]) (by simpa using outside_of_not_requested h hwants)
  · rw [subcodeQ, if_neg (show ¬ job.has .subchannelQ = true from hwants)]

theorem subcodeRW_getElem? (h : ¬ (chanRW job ∧ 2376 ≤ k ∧ k < 2448)) : (subcodeRW job f)[k]? = f[k]? := by
  by_cases hwants : chanRW job
  · rw [subcodeRW, if_pos (show job.has .subchannelRW = true from hwants)]
    exact memWrite_out (by simp [hlen]) (by simpa using outside_of_not_requested h hwants)
  · rw [subcodeRW, if_neg (show ¬ job.has .subchannelRW = true from hwants)]

theorem subcodeInterleave_getElem? (h : ¬ (¬ deint job ∧ 2352 ≤ k ∧ k < 2448)) :
    (subcodeInterleave job f)[k]? = f[k]? := by
  by_cases hwants : deint job
  · rw [subcodeInterleave, if_pos (show job.has .subcodeDeinterleave = true from hwants)]
  · rw [subcodeInterleave, if_neg (show ¬ job.has .subcodeDeinterleave = true from hwants)]
    exact memWrite_out (by simp [hlen]) (by simpa using outside_of_not_requested h hwants)

theorem subcode_getElem? (hp : ¬ (chanP job ∧ 2352 ≤ k ∧ k < 2364)) (hq : ¬ (chanQ job ∧ 2364 ≤ k ∧ k < 2376))
    (hrw : ¬ (chanRW job ∧ 2376 ≤ k ∧ k < 2448)) (hi : ¬ (anySub job ∧ ¬ deint job ∧ 2352 ≤ k ∧ k < 2448)) :
    (subcode job f)[k]? = f[k]? := by
  unfold subcode
  split_ifs with hany
  · have hlenP := subcodeP_length (job := job) hlen
    have hlenQ := subcodeQ_length (job := job) hlenP
    rw [subcodeInterleave_getElem? (subcodeRW_length hlenQ) fun hk => hi ⟨(wantsSubcode_iff job).1 hany, hk⟩,
      subcodeRW_getElem? hlenQ hrw, subcodeQ_getElem? hlenP hq, subcodeP_getElem? hlen hp]
  · rfl

end

theorem subcode_agreeOutside (job : SynthJob) {f : List Byte} (hlen : f.length = 2448) :
    AgreeOutside 2352 2448 (subcode job f) f :=
  ⟨(subcode_length hlen).trans hlen.symm, fun k hk =>
    subcode_getElem? hlen (by omega) (by omega) (by omega) (by omega)⟩

section
variable {variant : Nat} {job : SynthJob} {s : State} {k : Nat}

theorem wanted_of_jobAnswer {bytes : List Byte} (h : jobAnswer variant job s = some bytes) :
    (mainChannel variant job).wanted = true := by
  by_contra hwanted
  rw [jobAnswer_of_not_wanted (Bool.eq_false_iff.2 hwanted)] at h
  exact Option.some_ne_none _ h.symm

/-- The main-channel step of a 2048-byte variant writes the ranges of the requested parts only. -/
theorem jobMain_getElem?_2048 (hv : variant < 2) (h : runs variant job s) (huser : ¬ (user job ∧ 16 ≤ k ∧ k < 2064))
    (hheader : ¬ (header job ∧ k < 16)) (hecm : ¬ (ecm job ∧ 2064 ≤ k ∧ k < 2352)) :
    (jobMain variant job s)[k]? = (frameBytes s job 0 2448)[k]? := by
  have hframe := frameBytes_length s job 0 2448
  have hwrite := writeUser_agreeOutside (jobAnswer_length_2048 hv h) hframe
  have hlen := hwrite.length_eq.trans hframe
  calc (jobMain variant job s)[k]? = (beforeEcm variant job s)[k]? := by
        rw [jobMain_eq_ecm2048 hv]
        by_cases hwants : ecm job
        · exact (ecm2048_agreeOutside _ (beforeEcm_length hv h)).byte_eq k (outside_of_not_requested hecm hwants)
        · rw [ecm2048_of_not_ecm _ hwants]
    _ = (writeUser (jobAnswer variant job s) (frameBytes s job 0 2448))[k]? := by
        by_cases hwants : header job
        · exact (header2048_agreeOutside (hasTime_of_runs hv h) hlen).byte_eq k
            (.inr (not_lt.1 fun hk => hheader ⟨hwants, hk⟩))
        · rw [beforeEcm, header2048_of_not_header hwants]
    _ = (frameBytes s job 0 2448)[k]? := by
        cases hanswer : jobAnswer variant job s with
        | none => rw [writeUser, Option.elim_none]
        | some bytes =>
          have hwants : user job := by
            have hwanted := wanted_of_jobAnswer hanswer
            rwa [mainChannel, if_pos hv] at hwanted
          rw [← hanswer]
          exact hwrite.byte_eq k (outside_of_not_requested huser hwants)

theorem jobMain_getElem?_2352 (hv : variant < 4) (hraw : ¬ variant < 2) (h : runs variant job s)
    (hmain : ¬ (anyMain job ∧ k < 2352)) : (jobMain variant job s)[k]? = (frameBytes s job 0 2448)[k]? := by
  by_cases hk : k < 2352
  · have hwanted : (mainChannel variant job).wanted = false := by
      rw [mainChannel, if_neg hraw]
      exact wantsRaw_eq_false fun hany => hmain ⟨hany, hk⟩
    rw [jobMain_2352 hraw, jobAnswer_of_not_wanted hwanted]
    rfl
  · exact (jobMain_agreeOutside hv h).byte_eq k (.inr (by omega))

/-- A byte of the frame after a job that ran. -/
theorem frameByte_afterJob (hv : variant < 4) (h : runs variant job s) (hk : k < 2448) :
    (subcode job (jobMain variant job s))[k]? = some (frameByte (afterJob variant job s) job k) := by
  have hlen : (subcode job (jobMain variant job s)).length = 2448 := subcode_length (jobMain_length hv h)
  rw [List.getElem?_eq_getElem (by omega)]
  exact congrArg some (Memory.readByte_writeBytes_in s.dest job.off _ k (by omega)).symm

theorem frameByte_afterJob_of_not_mayWrite (hv : variant < 4) (h : runs variant job s) (hk : k < 2448)
    (hout : ¬ mayWrite variant job k) : frameByte (afterJob variant job s) job k = frameByte s job k := by
  obtain ⟨h2048, hnot⟩ := not_or.1 hout
  obtain ⟨h2352, hnot⟩ := not_or.1 hnot
  obtain ⟨hp, hnot⟩ := not_or.1 hnot
  obtain ⟨hq, hnot⟩ := not_or.1 hnot
  obtain ⟨hrw, hi⟩ := not_or.1 hnot
  have hmain : (jobMain variant job s)[k]? = (frameBytes s job 0 2448)[k]? := by
    by_cases hlt : variant < 2
    · exact jobMain_getElem?_2048 hlt h (fun hu => h2048 ⟨hlt, .inl hu⟩) (fun hh => h2048 ⟨hlt, .inr (.inl hh)⟩)
        (fun he => h2048 ⟨hlt, .inr (.inr he)⟩)
    · exact jobMain_getElem?_2352 hv hlt h fun hm => h2352 ⟨by omega, hm⟩
  have hframe : (frameBytes s job 0 2448)[k]? = some (frameByte s job k) := by
    rw [List.getElem?_eq_getElem (by simpa using hk)]
    exact congrArg some (Memory.readBytes_getElem ..)
  refine Option.some.inj ?_
  rw [← frameByte_afterJob hv h hk, subcode_getElem? (jobMain_length hv h) hp hq hrw hi, hmain, hframe]

/-- A job that does not run to its end writes no byte. -/
theorem dest_of_not_runs (hv : variant < 4) (h : ¬ runs variant job s) {t : State}
    (hexec : exec (synthInstr variant job) s = .next t) : t.dest = s.dest := by
  rw [exec_synthInstr hv] at hexec
  obtain rfl := Host.Outcome.next.inj hexec
  obtain ⟨-, hsynth⟩ | ⟨-, e, -, hsynth⟩ | ⟨-, -, e, -, hsynth⟩ | ⟨hf, hcheck, bytes, hfetch, -⟩ :=
    State.synth_cases s variant job (mainChannel variant job) (mainStep variant s.params.edcLsbFirst job)
  · rw [hsynth]
  · rw [hsynth, State.raise_dest]
  · rw [hsynth, State.raise_dest]
    rfl
  · refine absurd ⟨(State.faulted_eq_false s).1 hf, ?_, fun n hn => ?_⟩ h
    · rw [synthValidate_eq_refusal] at hcheck
      cases hrefusal : refusal variant job s.destLen with
      | none => rfl
      | some e => rw [hrefusal] at hcheck; cases hcheck
    · by_contra hne
      rw [mainChannel_of_asked hn, fetch_of_length_ne hne] at hfetch
      cases hfetch

end

/-- Settles O45: outside the frame nothing is written, inside it each step keeps to the range of its part. -/
theorem synthWriteRange : Obligations.SynthWriteRange := by
  unfold Obligations.SynthWriteRange
  intro variant job s t a hv hexec hout
  by_cases h : runs variant job s
  case neg => rw [dest_of_not_runs hv h hexec]
  case pos =>
    obtain rfl := Host.Outcome.next.inj ((exec_synthInstr_of_runs hv h).symm.trans hexec)
    by_cases hin : job.off ≤ a ∧ a < job.off + 2448
    · obtain ⟨k, rfl⟩ := Nat.exists_eq_add_of_le hin.1
      exact frameByte_afterJob_of_not_mayWrite hv h (by omega) fun hmay => hout ⟨k, rfl, by omega, hmay⟩
    · have hlen : (subcode job (jobMain variant job s)).length = 2448 := subcode_length (jobMain_length hv h)
      exact Memory.readByte_writeBytes_out s.dest job.off _ a (by omega)

end Sys2Proof.Proofs.SynthFrames
end

section
/-! PROOFS. The ECC of 42_codecs.md R217 to R220: a column and its two parity bytes are a codeword, and so is every P column
and Q diagonal of a finished frame (43_sector_synth.md R254). Then a job done twice, and on equal frames (R263). -/

namespace Sys2Proof.Proofs.EccColumns
open Machine Claims
open FrameBytes Synth SynthFrames

/-! ## A column as the list of its bytes (42_codecs.md R218) -/

/-- The plain sum of a column's bytes. -/
def plainSum (b : Byte) (column : List Byte) : Byte := column.foldl (fun sum t => sum ^^^ t) b

/-- The sum of a column's bytes weighted by powers of α. -/
def weightedSum (a : Byte) (column : List Byte) : Byte := column.foldl (fun sum t => gfDouble (sum ^^^ t)) a

/-- The bytes at `start`, `start + minorInc`, … of a block of `size` bytes, round and round. -/
def strided (src : List Byte) (size minorInc n start : Nat) : List Byte :=
  (List.range n).map fun i => src.getD ((start + minorInc * i) % size) 0

theorem strided_succ (src : List Byte) (size minorInc n start : Nat) :
    strided src size minorInc (n + 1) start =
      src.getD (start % size) 0 :: strided src size minorInc n (start + minorInc) := by
  rw [strided, List.range_succ_eq_map, List.map_cons, List.map_map, strided]
  refine congrArg _ (List.map_congr_left fun i _ => ?_)
  rw [Function.comp, Nat.mul_succ, Nat.add_assoc, Nat.add_comm (minorInc * i)]

/-- The index one step on, wrapped by a subtraction. -/
theorem wrapped_eq_mod {size minorInc start : Nat} (hsize : 0 < size) (hinc : minorInc ≤ size) :
    (if size ≤ start % size + minorInc then start % size + minorInc - size else start % size + minorInc) =
      (start + minorInc) % size := by
  have hlt := Nat.mod_lt start hsize
  rw [← Nat.mod_add_mod start size minorInc]
  generalize start % size = r at hlt ⊢
  split_ifs with hwrap
  · rw [Nat.mod_eq_sub_mod hwrap, Nat.mod_eq_of_lt (by omega)]
  · exact (Nat.mod_eq_of_lt (by omega)).symm

/-- The inner loop takes both sums of the column. -/
theorem eccColumn_eq (src : List Byte) {size minorInc : Nat} (hsize : 0 < size) (hinc : minorInc ≤ size)
    (n start : Nat) (a b : Byte) :
    eccColumn src size minorInc n (start % size) a b =
      (weightedSum a (strided src size minorInc n start), plainSum b (strided src size minorInc n start)) := by
  induction n generalizing start a b with
  | zero => rfl
  | succ n ih =>
    rw [eccColumn, wrapped_eq_mod hsize hinc, ih, strided_succ]
    rfl

/-- The parity bytes of a column, by its two sums. -/
def parityOf (column : List Byte) : Byte × Byte :=
  (gfUnmix (gfDouble (weightedSum 0 column) ^^^ plainSum 0 column),
    gfUnmix (gfDouble (weightedSum 0 column) ^^^ plainSum 0 column) ^^^ plainSum 0 column)

/-- A column is completed to a codeword by its parity bytes. -/
theorem codeword_append_parityOf (column : List Byte) :
    codeword (column ++ [(parityOf column).1, (parityOf column).2]) := by
  have hspec := gfUnmix_spec (gfDouble (weightedSum 0 column) ^^^ plainSum 0 column)
  rw [codeword, List.foldl_append, List.foldl_append]
  change (plainSum 0 column ^^^ (parityOf column).1) ^^^ (parityOf column).2 = 0#8 ∧
    gfDouble (gfDouble (weightedSum 0 column ^^^ (parityOf column).1) ^^^ (parityOf column).2) = 0#8
  rw [parityOf]
  generalize weightedSum 0 column = a at hspec ⊢
  generalize plainSum 0 column = b at hspec ⊢
  generalize gfUnmix (gfDouble a ^^^ b) = p at hspec ⊢
  refine ⟨?plain, ?weighted⟩
  case plain =>
    calc (b ^^^ p) ^^^ (p ^^^ b) = (b ^^^ b) ^^^ (p ^^^ p) := by ac_rfl
      _ = 0 := by rw [BitVec.xor_self, BitVec.xor_self]; rfl
  case weighted =>
    have hzero : gfDouble (a ^^^ p) ^^^ (p ^^^ b) = 0 := by
      calc gfDouble (a ^^^ p) ^^^ (p ^^^ b) = (gfDouble a ^^^ b) ^^^ (p ^^^ gfDouble p) := by rw [gfDouble_xor]; ac_rfl
        _ = 0 := by rw [hspec, BitVec.xor_self]; rfl
    rw [hzero]
    decide

/-! ## An ECC block of a frame (42_codecs.md R218) -/

/-- Where column `major` of a block starts. -/
abbrev columnStart (majorMult major : Nat) : Nat := (major / 2) * majorMult + major % 2

/-- The bytes of column `major` of a block, which starts at index 12 of the frame. -/
def eccBytes (f : List Byte) (majorCount minorCount majorMult minorInc major : Nat) : List Byte :=
  strided (f.drop 12) (majorCount * minorCount) minorInc minorCount (columnStart majorMult major)

/-- The parity bytes of all columns of a block are those of its columns' bytes. -/
def EccHolds (f : List Byte) (majorCount minorCount majorMult minorInc dest : Nat) : Prop :=
  ∀ major < majorCount,
    f[dest + major]? = some (parityOf (eccBytes f majorCount minorCount majorMult minorInc major)).1 ∧
    f[dest + major + majorCount]? = some (parityOf (eccBytes f majorCount minorCount majorMult minorInc major)).2

/-- A frame that holds a block's bytes already is not changed by writing them. -/
theorem memWrite_of_memRead {f v : List Byte} {k : Nat} (h : memRead f k v.length = v) : memWrite f k v = f := by
  rw [memWrite, ← List.drop_drop]
  nth_rw 1 [← h]
  rw [memRead, List.take_append_drop, List.take_append_drop]

section
variable {majorCount minorCount majorMult minorInc dest : Nat} {f g : List Byte}

/-- The bytes of a column are data bytes of its block. -/
theorem eccBytes_congr (hsize : 0 < majorCount * minorCount)
    (hagree : ∀ i, 12 ≤ i → i < 12 + majorCount * minorCount → g[i]? = f[i]?) (major : Nat) :
    eccBytes g majorCount minorCount majorMult minorInc major =
      eccBytes f majorCount minorCount majorMult minorInc major := by
  refine List.map_congr_left fun i _ => ?_
  have hlt := Nat.mod_lt (columnStart majorMult major + minorInc * i) hsize
  rw [List.getD_eq_getElem?_getD, List.getD_eq_getElem?_getD, List.getElem?_drop, List.getElem?_drop,
    hagree _ (by omega) (by omega)]

theorem EccHolds.congr (h : EccHolds f majorCount minorCount majorMult minorInc dest)
    (hsize : 0 < majorCount * minorCount) {hi : Nat} (hdata : 12 + majorCount * minorCount ≤ hi)
    (hparity : dest + 2 * majorCount ≤ hi) (hagree : ∀ i < hi, g[i]? = f[i]?) :
    EccHolds g majorCount minorCount majorMult minorInc dest := by
  intro major hmajor
  rw [eccBytes_congr hsize (fun i _ hi => hagree i (by omega)), hagree _ (by omega), hagree _ (by omega)]
  exact h major hmajor

/-- A column of a block that holds, with its parity bytes, is a codeword. -/
theorem EccHolds.codeword (h : EccHolds f majorCount minorCount majorMult minorInc dest) {major : Nat}
    (hmajor : major < majorCount) : codeword (eccBytes f majorCount minorCount majorMult minorInc major ++
      [f.getD (dest + major) 0, f.getD (dest + major + majorCount) 0]) := by
  obtain ⟨hfirst, hsecond⟩ := h major hmajor
  rw [List.getD_eq_getElem?_getD, List.getD_eq_getElem?_getD, hfirst, hsecond]
  exact codeword_append_parityOf _

section
variable (hsize : 0 < majorCount * minorCount) (hinc : minorInc ≤ majorCount * minorCount)
  (hstart : ∀ major < majorCount, columnStart majorMult major < majorCount * minorCount)
include hsize hinc hstart

theorem eccParity_eq (f : List Byte) {major : Nat} (hmajor : major < majorCount) :
    eccParity (f.drop 12) majorCount minorCount majorMult minorInc major =
      parityOf (eccBytes f majorCount minorCount majorMult minorInc major) := by
  have hcolumn := eccColumn_eq (f.drop 12) hsize hinc minorCount (columnStart majorMult major) 0 0
  rw [Nat.mod_eq_of_lt (hstart major hmajor)] at hcolumn
  rw [eccParity, hcolumn]
  rfl

/-- What `ECCBlock` writes: the first parity bytes of all columns, then the second ones. -/
theorem eccBlock_eq (f : List Byte) : eccBlock f majorCount minorCount majorMult minorInc dest = memWrite f dest
    ((List.range majorCount).map (fun major => (parityOf (eccBytes f majorCount minorCount majorMult minorInc major)).1) ++
     (List.range majorCount).map (fun major => (parityOf (eccBytes f majorCount minorCount majorMult minorInc major)).2)) := by
  have hparity : (List.range majorCount).map (eccParity (f.drop 12) majorCount minorCount majorMult minorInc) =
      (List.range majorCount).map fun major => parityOf (eccBytes f majorCount minorCount majorMult minorInc major) :=
    List.map_congr_left fun major hmajor => eccParity_eq hsize hinc hstart f (List.mem_range.1 hmajor)
  rw [eccBlock, hparity, List.map_map, List.map_map]
  rfl

theorem eccHolds_eccBlock (hdata : 12 + majorCount * minorCount ≤ dest) (hparity : dest + 2 * majorCount ≤ f.length) :
    EccHolds (eccBlock f majorCount minorCount majorMult minorInc dest) majorCount minorCount majorMult minorInc dest := by
  intro major hmajor
  have hagree : AgreeOutside dest (dest + 2 * majorCount) (eccBlock f majorCount minorCount majorMult minorInc dest) f :=
    (AgreeOutside.refl _ _ f).eccBlock le_rfl le_rfl hparity
  rw [eccBytes_congr hsize fun i _ hi => hagree.byte_eq i (by omega), eccBlock_eq hsize hinc hstart, Nat.add_assoc]
  constructor
  · rw [memWrite_in (by simp; omega) (by simp; omega), List.getElem?_append_left (by simpa using hmajor)]
    simp [hmajor]
  · rw [memWrite_in (by simp; omega) (by simp; omega), List.getElem?_append_right (by simp)]
    simp [hmajor]

/-- A block whose parity bytes are in place is not changed by computing them again. -/
theorem EccHolds.eccBlock_eq (h : EccHolds f majorCount minorCount majorMult minorInc dest) :
    eccBlock f majorCount minorCount majorMult minorInc dest = f := by
  rw [EccColumns.eccBlock_eq hsize hinc hstart]
  refine memWrite_of_memRead (List.ext_getElem? fun i => ?_)
  by_cases hfirst : i < majorCount
  · obtain ⟨hbyte, -⟩ := h i hfirst
    rw [memRead_getElem? (by simp; omega), hbyte, List.getElem?_append_left (by simpa using hfirst)]
    simp [hfirst]
  by_cases hsecond : i < 2 * majorCount
  · obtain ⟨-, hbyte⟩ := h (i - majorCount) (by omega)
    rw [Nat.add_assoc, Nat.sub_add_cancel (by omega)] at hbyte
    rw [memRead_getElem? (by simp; omega), hbyte, List.getElem?_append_right (by simp; omega)]
    simp [show i - majorCount < majorCount by omega]
  · rw [memRead, List.getElem?_take_eq_none (by simp; omega), List.getElem?_eq_none (by simp; omega)]

end

end

/-! ## The P columns and the Q diagonals of a frame (42_codecs.md R219, R220) -/

theorem columnStart_P (major : Nat) : columnStart 2 major = major := by
  rw [columnStart]
  omega

theorem columnStart_Q_lt {major : Nat} (h : major < 52) : columnStart 86 major < 52 * 43 := by
  rw [columnStart]
  omega

/-- The P code of a frame holds. -/
abbrev HoldsP (f : List Byte) : Prop := EccHolds f 86 24 2 86 2076

/-- The Q code of a frame holds. -/
abbrev HoldsQ (f : List Byte) : Prop := EccHolds f 52 43 86 88 2248

section
variable {f : List Byte}

theorem holdsP_eccP (hlen : f.length = 2448) : HoldsP (eccP f) :=
  eccHolds_eccBlock (by decide) (by decide) (fun major h => by rw [columnStart_P]; omega) (by decide) (by omega)

theorem holdsQ_eccQ (hlen : f.length = 2448) : HoldsQ (eccQ f) :=
  eccHolds_eccBlock (by decide) (by decide) (fun _ => columnStart_Q_lt) (by decide) (by omega)

theorem eccP_of_holdsP (h : HoldsP f) : eccP f = f :=
  EccHolds.eccBlock_eq (by decide) (by decide) (fun major hmajor => by rw [columnStart_P]; omega) h

theorem eccQ_of_holdsQ (h : HoldsQ f) : eccQ f = f :=
  EccHolds.eccBlock_eq (by decide) (by decide) (fun _ => columnStart_Q_lt) h

/-- Both codes hold of the frame the ECC step leaves: the Q parity lies behind all that the P code speaks of. -/
theorem holds_ecc (hlen : f.length = 2448) : HoldsP (eccQ (eccP f)) ∧ HoldsQ (eccQ (eccP f)) := by
  have hlen' : (eccP f).length = 2448 := (eccP_agreeOutside hlen).length_eq.trans hlen
  exact ⟨(holdsP_eccP hlen).congr (by decide) (hi := 2248) (by decide) (by decide)
    fun i hi => (eccQ_agreeOutside hlen').byte_eq i (.inl hi), holdsQ_eccQ hlen'⟩

theorem holds_ecm2048 (lsbFirst : Bool) {job : SynthJob} (hecm : ecm job) (hlen : f.length = 2448) :
    HoldsP (ecm2048 lsbFirst job f) ∧ HoldsQ (ecm2048 lsbFirst job f) := by
  have hedc := (withEdc_agreeOutside hlen lsbFirst).length_eq.trans hlen
  rw [ecm2048_eq lsbFirst hecm]
  exact holds_ecc ((withReserved_agreeOutside hedc).length_eq.trans hedc)

end

section
variable {s : State} {job : SynthJob} {f : List Byte} (hframe : ∀ k < 2352, f[k]? = some (frameByte s job k))
include hframe

theorem getD_eq_frameByte {k : Nat} (hk : k < 2352) : f.getD k 0 = frameByte s job k := by
  rw [List.getD_eq_getElem?_getD, hframe k hk, Option.getD_some]

/-- The columns of the statements are those of the block. -/
theorem columnP_eq {major : Nat} (h : major < 86) : columnP s job major =
    eccBytes f 86 24 2 86 major ++ [f.getD (2076 + major) 0, f.getD (2076 + major + 86) 0] := by
  rw [columnP, eccBytes, strided, getD_eq_frameByte hframe (by omega), getD_eq_frameByte hframe (by omega)]
  refine congrArg (· ++ _) (List.map_congr_left fun minor hminor => ?_)
  have hlt := List.mem_range.1 hminor
  rw [columnStart_P, Nat.mod_eq_of_lt (by omega), List.getD_eq_getElem?_getD, List.getElem?_drop,
    hframe _ (by omega), Option.getD_some]

theorem diagonalQ_eq {major : Nat} (h : major < 52) : diagonalQ s job major =
    eccBytes f 52 43 86 88 major ++ [f.getD (2248 + major) 0, f.getD (2248 + major + 52) 0] := by
  rw [diagonalQ, eccBytes, strided, getD_eq_frameByte hframe (by omega), getD_eq_frameByte hframe (by omega)]
  refine congrArg (· ++ _) (List.map_congr_left fun minor _ => ?_)
  have hlt := Nat.mod_lt (columnStart 86 major + 88 * minor) (show 0 < 52 * 43 by decide)
  rw [List.getD_eq_getElem?_getD, List.getElem?_drop, hframe _ (by omega), Option.getD_some]

end

/-- Settles O48: both codes hold of the main channel that the job leaves, and every column that holds is a codeword. -/
theorem synthEccIsACodeword : Obligations.SynthEccIsACodeword := by
  unfold Obligations.SynthEccIsACodeword
  intro variant job s hv h hecm
  have hlen := jobMain_length (by omega) h
  have hframe : ∀ k < 2352, (jobMain variant job s)[k]? = some (frameByte (afterJob variant job s) job k) := fun k hk => by
    rw [← frameByte_afterJob (by omega) h (by omega), (subcode_agreeOutside job hlen).byte_eq k (.inl hk)]
  obtain ⟨hP, hQ⟩ := holds_ecm2048 s.params.edcLsbFirst hecm (beforeEcm_length hv h)
  rw [← jobMain_eq_ecm2048 hv] at hP hQ
  refine ⟨_, exec_synthInstr_of_runs (by omega) h, fun major hmajor => ?_, fun major hmajor => ?_⟩
  · rw [columnP_eq hframe hmajor]
    exact hP.codeword hmajor
  · rw [diagonalQ_eq hframe hmajor]
    exact hQ.codeword hmajor

/-! ## A job done twice (43_sector_synth.md R263) -/

section
variable (lsbFirst : Bool) {job : SynthJob} {f g : List Byte}

/-- A frame whose main channel the EDC and ECC step left is not changed by that step. -/
theorem ecm2048_again (hlen : f.length = 2448) (hagree : AgreeOutside 2352 2448 g (ecm2048 lsbFirst job f)) :
    ecm2048 lsbFirst job g = g := by
  by_cases hecm : ecm job
  · obtain ⟨hedc, hreserved⟩ := memRead_ecm2048 lsbFirst hecm hlen
    obtain ⟨hP, hQ⟩ := holds_ecm2048 lsbFirst hecm hlen
    rw [← hagree.memRead_eq (.inl (by omega)), ← hagree.memRead_eq (k := 0) (.inl (by omega))] at hedc
    rw [← hagree.memRead_eq (.inl (by omega))] at hreserved
    have hsame : withReserved (withEdc lsbFirst g) = g := by
      rw [withEdc, memWrite_of_memRead (by rwa [edcBytes_length]), withReserved,
        memWrite_of_memRead (by rwa [List.length_replicate])]
    rw [ecm2048_eq lsbFirst hecm, hsame,
      eccP_of_holdsP (hP.congr (by decide) (hi := 2248) (by decide) (by decide) fun i hi => hagree.byte_eq i (.inl (by omega))),
      eccQ_of_holdsQ (hQ.congr (by decide) (hi := 2352) (by decide) (by decide) fun i hi => hagree.byte_eq i (.inl hi))]
  · exact ecm2048_of_not_ecm lsbFirst hecm

theorem main2048_again {user : Option (List Byte)} (huser : ∀ u, user = some u → u.length = 2048)
    (htime : header job → hasTime job.lba) (hlen : f.length = 2448)
    (hagree : AgreeOutside 2352 2448 g (main2048 lsbFirst job user f)) : main2048 lsbFirst job user g = g := by
  have hwrite := writeUser_agreeOutside huser hlen
  have hlen' := (header2048_agreeOutside htime (hwrite.length_eq.trans hlen)).length_eq.trans (hwrite.length_eq.trans hlen)
  have huserAgain : writeUser user g = g := by
    cases user with
    | none => rfl
    | some u =>
      have hu := huser u rfl
      have hread := memRead_main2048_user lsbFirst hu htime hlen
      rw [← hagree.memRead_eq (.inl (by omega)), ← hu] at hread
      exact memWrite_of_memRead hread
  have hheaderAgain : header2048 job g = g := by
    by_cases hheader : header job
    · have hread := memRead_main2048_header lsbFirst huser hheader (htime hheader) hlen
      rw [← hagree.memRead_eq (.inl (by omega))] at hread
      rw [header2048_of_header hheader (htime hheader)]
      exact memWrite_of_memRead hread
    · exact header2048_of_not_header hheader
  rw [main2048_eq] at hagree
  rw [main2048_eq, huserAgain, hheaderAgain, ecm2048_again lsbFirst hlen' hagree]

theorem main2352_again {raw : Option (List Byte)} (hraw : ∀ r, raw = some r → r.length = 2352) (hlen : f.length = 2448)
    (hagree : AgreeOutside 2352 2448 g (main2352 raw f)) : main2352 raw g = g := by
  cases raw with
  | none => rfl
  | some r =>
    have hr := hraw r rfl
    have hread : memRead (main2352 (some r) f) 0 r.length = r := memRead_memWrite (by omega)
    rw [← hagree.memRead_eq (.inl (by omega))] at hread
    exact memWrite_of_memRead hread

end

/-- The channels that a job requests are written the same again. -/
theorem channels_again (job : SynthJob) {r : List Byte} (hr : r.length = 96) :
    channels job (channels job r) = channels job r := by
  obtain ⟨p, q, w, rfl, hp, hq, hw⟩ := exists_channel_rows hr
  rw [channels_rows job w hp hq, channels_rows]
  all_goals split_ifs <;> simp [hp, hq]

/-- With all three channels requested nothing of the old region is left. -/
theorem channels_const {job : SynthJob} (hall : chanP job ∧ chanQ job ∧ chanRW job) (r r' : List Byte) :
    channels job r = channels job r' := by
  obtain ⟨hP, hQ, hRW⟩ := hall
  simp only [channels, if_pos hP, if_pos hQ, if_pos hRW]

theorem subcodeRegion_again {job : SynthJob} (h : ¬ anySub job ∨ deint job ∨ (chanP job ∧ chanQ job ∧ chanRW job))
    {r : List Byte} (hr : r.length = 96) : subcodeRegion job (subcodeRegion job r) = subcodeRegion job r := by
  unfold subcodeRegion
  by_cases hany : anySub job
  case neg => rw [if_neg hany, if_neg hany]
  by_cases hdeint : deint job
  case pos => rw [if_pos hany, if_pos hany, if_pos hdeint, if_pos hdeint, channels_again job hr]
  case neg =>
    obtain hnone | hsome | hall := h
    · exact absurd hany hnone
    · exact absurd hsome hdeint
    · rw [if_pos hany, if_pos hany, if_neg hdeint, if_neg hdeint, channels_const hall _ r]

theorem subcode_again {job : SynthJob} (h : ¬ anySub job ∨ deint job ∨ (chanP job ∧ chanQ job ∧ chanRW job))
    {f : List Byte} (hlen : f.length = 2448) : subcode job (subcode job f) = subcode job f := by
  obtain ⟨m, r, rfl, hm, hr⟩ := exists_main_region hlen
  rw [subcode_append job hm hr, subcode_append job hm (subcodeRegion_length job hr), subcodeRegion_again h hr]

section
variable {variant : Nat} {job : SynthJob} {s s' : State}

/-- The frame after a job that ran, whole. -/
theorem frameBytes_afterJob_whole (hv : variant < 4) (h : runs variant job s) :
    frameBytes (afterJob variant job s) job 0 2448 = subcode job (jobMain variant job s) := by
  have hlen : (subcode job (jobMain variant job s)).length = 2448 := subcode_length (jobMain_length hv h)
  rw [frameBytes_afterJob hv h le_rfl, memRead, List.drop_zero, List.take_of_length_le hlen.le]

theorem runs_afterJob (h : runs variant job s) : runs variant job (afterJob variant job s) := h

/-- The main-channel step of a job finds its own bytes in the frame it left. -/
theorem jobMain_afterJob (hv : variant < 4) (h : runs variant job s) :
    jobMain variant job (afterJob variant job s) = subcode job (jobMain variant job s) := by
  have hagree := subcode_agreeOutside job (jobMain_length hv h)
  have hframe := frameBytes_length s job 0 2448
  by_cases h2048 : variant < 2
  · rw [jobMain_2048 h2048] at hagree
    rw [jobMain_2048 h2048, frameBytes_afterJob_whole hv h, jobMain_2048 h2048]
    exact main2048_again _ (jobAnswer_length_2048 h2048 h) (hasTime_of_runs h2048 h) hframe hagree
  · have hlength : ∀ r, jobAnswer variant job s = some r → r.length = 2352 := fun r hr => by
      have hlen := jobAnswer_length hv h hr
      rwa [mainChannel, if_neg h2048] at hlen
    rw [jobMain_2352 h2048] at hagree
    rw [jobMain_2352 h2048, frameBytes_afterJob_whole hv h, jobMain_2352 h2048]
    exact main2352_again hlength hframe hagree

/-- Writing over a frame the bytes it holds changes no byte. -/
theorem readByte_writeBytes_same (m : Memory) (a n x : Nat) : (m.writeBytes a (m.readBytes a n)).readByte x = m.readByte x := by
  by_cases hin : a ≤ x ∧ x < a + n
  · obtain ⟨k, rfl⟩ := Nat.exists_eq_add_of_le hin.1
    rw [Memory.readByte_writeBytes_in m a _ k (by simp; omega), Memory.readBytes_getElem]
  · exact Memory.readByte_writeBytes_out m a _ x (by simp; omega)

theorem readByte_afterJob_afterJob (hv : variant < 4) (h : runs variant job s)
    (honce : ¬ anySub job ∨ deint job ∨ (chanP job ∧ chanQ job ∧ chanRW job)) (a : Nat) :
    (afterJob variant job (afterJob variant job s)).dest.readByte a = (afterJob variant job s).dest.readByte a := by
  have hsame : subcode job (jobMain variant job (afterJob variant job s)) =
      (afterJob variant job s).dest.readBytes job.off 2448 := by
    rw [jobMain_afterJob hv h, subcode_again honce (jobMain_length hv h)]
    exact (frameBytes_afterJob_whole hv h).symm
  change ((afterJob variant job s).dest.writeBytes job.off
    (subcode job (jobMain variant job (afterJob variant job s)))).readByte a = _
  rw [hsame, readByte_writeBytes_same]

/-- The answers of a job depend on what its variant asks for. -/
theorem jobAnswer_congr (hv : variant < 4)
    (hdisc : ∀ n, asked variant job n → s.disc.readBlock job.lba n = s'.disc.readBlock job.lba n) :
    jobAnswer variant job s = jobAnswer variant job s' := by
  cases hwanted : (mainChannel variant job).wanted with
  | false => rw [jobAnswer_of_not_wanted hwanted, jobAnswer_of_not_wanted hwanted]
  | true =>
    rw [jobAnswer_of_wanted hwanted, jobAnswer_of_wanted hwanted]
    cases hzero : (mainChannel variant job).zero with
    | true => rfl
    | false => rw [hdisc _ (asked_of_wanted hv hwanted hzero)]

end

/-- Settles O52: a second run writes what the first one left; and the frame a job leaves is a function of the frame it
found, the answers and the byte order. -/
theorem synthesisIsDeterministicAndIdempotent : Obligations.SynthesisIsDeterministicAndIdempotent := by
  unfold Obligations.SynthesisIsDeterministicAndIdempotent
  refine ⟨fun variant job s hv h honce => ?again, fun variant job s s' hv h h' hlsb hframe hdisc => ?same⟩
  case again =>
    exact ⟨_, _, exec_synthInstr_of_runs hv h, exec_synthInstr_of_runs hv (runs_afterJob h),
      readByte_afterJob_afterJob hv h honce⟩
  case same =>
    refine ⟨_, _, exec_synthInstr_of_runs hv h, exec_synthInstr_of_runs hv h', ?_⟩
    rw [frameBytes_afterJob_whole hv h, frameBytes_afterJob_whole hv h', jobMain, jobMain, hlsb, hframe,
      jobAnswer_congr hv hdisc]

end Sys2Proof.Proofs.EccColumns
end
